-- ==== Sys2Proof/Word.lean ====
section
/-! DEFINITION. The word types of CRCBC (00_scope.md R9-R11): an 8-bit BUF byte, the 32-bit command word and interface
register, the 64-bit operand register. -/
namespace Sys2Proof

/-- One byte of BUF (10_state.md R30). -/
abbrev Byte := BitVec 8

/-- A 32-bit register or command word (10_state.md R22; 30_encoding.md R80). -/
abbrev Word := BitVec 32

/-- A 64-bit operand or result register (10_state.md R25, R26). -/
abbrev DWord := BitVec 64

/-- The offset of a host access inside the 64 KiB window (10_state.md R22; 20_memory.md R60). -/
abbrev Offset := BitVec 16

end Sys2Proof
end

