-- ==== Sys2Proof/Config.lean ====
section
/-! DEFINITION. What an implementation of CRCBC fixes (00_scope.md R7, R18) and the one free value of the spec, the bytes
BUF holds after a hardware reset (70_reset_and_hazards.md R210). -/
namespace Sys2Proof

/-- A byte order: little-endian or big-endian; there is no third one (20_memory.md R51; 90_conflicts.md C1). -/
inductive Endian where
  | little
  | big
deriving DecidableEq, Repr

/-- The parameters of a CRCBC (00_scope.md R7, R18). A State carries one, and no step changes it (log entry 5). -/
structure Config where
  /-- NUM_CTX, the number of CRC contexts. -/
  numCtx : Nat
  /-- BUF_SIZE, the bytes of BUF. -/
  bufSize : Nat
  /-- NATIVE_ENDIAN, the byte order of the raw tier's direct access. -/
  nativeEndian : Endian
  /-- BASE, the host address of the window. -/
  base : Nat
deriving DecidableEq, Repr

/-- The legal values of the parameters (00_scope.md R7): the window is 64 KiB, aligned to 64 KiB. -/
abbrev Config.Legal (c : Config) : Prop :=
  1 ≤ c.numCtx ∧ c.numCtx ≤ 16 ∧ 16 ≤ c.bufSize ∧ c.bufSize ≤ 61440 ∧ c.base % 0x10000 = 0

/-- The reference values of 00_scope.md R7. -/
def Config.reference : Config :=
  { numCtx := 4, bufSize := 4096, nativeEndian := .little, base := 0 }

/-- FREE VALUE (10_state.md R35; 70_reset_and_hazards.md R210; 93_implementation_defined.md U2): the byte that BUF holds at
an offset after a hardware reset and before anything wrote it. The first argument numbers the draw (every hardware reset is
a new draw), the second is the offset. It has no body, so no claim can rest on its value (log entry 4). -/
opaque Config.powerOnByte : Nat → Nat → Byte

end Sys2Proof
end

