-- ==== Sys2Proof/Syntax.lean ====
section
/-! DEFINITION. The commands of CRCBC: one constructor per row of opcode_table.json (30_encoding.md R86, R89), with the
fields of its format (R81) turned into constructors. -/
namespace Sys2Proof

/-- WSEL: the width of a CRC register (00_scope.md R8; 40_crc.md R100). -/
inductive CrcWidth where
  | w16
  | w32
deriving DecidableEq, Repr

/-- T: the codec tier, bounds-checked or raw (30_encoding.md R84; 41_codec.md R144, R145). -/
inductive Tier where
  | safe
  | raw
deriving DecidableEq, Repr

/-- VID: the named variants in the order of their numbers 0..9 (30_encoding.md R85; 40_crc.md R104). -/
inductive Variant where
  | ibm
  | ccittFalse
  | ccittXmodem
  | ccittAug
  | ccittKermit
  | ccittKermitLsb
  | ccittMcrf4xx
  | crc32Standard
  | crc32q
  | crc32Posix
deriving DecidableEq, Repr

/-- SEL: the accessors of CRC.RD in the order of their numbers 0..5 (30_encoding.md R85; 40_crc.md R123). -/
inductive Selector where
  | poly
  | seed
  | xorout
  | flags
  | reg
  | table
deriving DecidableEq, Repr

/-- A command. `ctx` is the CTX field (0..15, checked by `Instr.wellFormed`), `ri`, `ro` and `bs` the construction flags, `e`
the codec byte order and `t` the tier (30_encoding.md R81-R85). -/
inductive Instr where
  | nop
  | crcCfg (ctx : Nat) (width : CrcWidth) (ri ro bs : Bool)
  | crcCfgt (ctx : Nat) (width : CrcWidth) (ri ro bs : Bool)
  | crcVar (ctx : Nat) (variant : Variant)
  | crcInit (ctx : Nat)
  | crcUpd (ctx : Nat)
  | crcFin (ctx : Nat)
  | crcCmp (ctx : Nat)
  | crcRd (ctx : Nat) (sel : Selector)
  | crcRfl (width : CrcWidth)
  | encI16 (e : Endian) (t : Tier)
  | encI32 (e : Endian) (t : Tier)
  | encI64 (e : Endian) (t : Tier)
  | encF32 (e : Endian) (t : Tier)
  | encF64 (e : Endian) (t : Tier)
  | decI16 (e : Endian) (t : Tier)
  | decI32 (e : Endian) (t : Tier)
  | decI64 (e : Endian) (t : Tier)
  | decF32 (e : Endian) (t : Tier)
  | decF64 (e : Endian) (t : Tier)
deriving DecidableEq, Repr

end Sys2Proof
end

