-- ==== Sys2Proof/WellFormed.lean ====
section
/-! DEFINITION. Which commands have an encoding: the CTX field is four bits wide (30_encoding.md R81, R82); every other field
is legal by its type (R83-R85). -/
namespace Sys2Proof

/-- CTX is a number 0..15 (30_encoding.md R82). -/
def ctxFits (ctx : Nat) : Bool := decide (ctx < 16)

/-- The command can be encoded. -/
def Instr.wellFormed : Instr → Bool
  | .nop => true
  | .crcCfg ctx _ _ _ _ => ctxFits ctx
  | .crcCfgt ctx _ _ _ _ => ctxFits ctx
  | .crcVar ctx _ => ctxFits ctx
  | .crcInit ctx => ctxFits ctx
  | .crcUpd ctx => ctxFits ctx
  | .crcFin ctx => ctxFits ctx
  | .crcCmp ctx => ctxFits ctx
  | .crcRd ctx _ => ctxFits ctx
  | .crcRfl _ => true
  | .encI16 _ _ => true
  | .encI32 _ _ => true
  | .encI64 _ _ => true
  | .encF32 _ _ => true
  | .encF64 _ _ => true
  | .decI16 _ _ => true
  | .decI32 _ _ => true
  | .decI64 _ _ => true
  | .decF32 _ _ => true
  | .decF64 _ _ => true

end Sys2Proof
end

