-- ==== Sys2Proof/Decode.lean ====
section
/-! DEFINITION. The decoder of 30_encoding.md R90 over the opcode map of R89 and the format masks of R86, total on every
32-bit word and rejecting by name (R91), and after it the encoder written from the same tables. -/
namespace Sys2Proof

/-- The rows of the opcode map (30_encoding.md R89). -/
inductive Mnemonic where
  | nop | crcCfg | crcCfgt | crcVar | crcInit | crcUpd | crcFin | crcCmp | crcRd | crcRfl
  | encI16 | encI32 | encI64 | encF32 | encF64
  | decI16 | decI32 | decI64 | decF32 | decF64
deriving DecidableEq, Repr

/-- The formats of 30_encoding.md R86. -/
inductive Format where
  | n | c | k | v | s | r | b
deriving DecidableEq, Repr

/-- The bits of a word that a format fixes (30_encoding.md R86). -/
def Format.mask : Format → Word
  | .n => 0xFFFFFFFF
  | .c => 0xFFFFF0FF
  | .k => 0xFFFF00FF
  | .v => 0xFFF0F0FF
  | .s => 0xFFF0F0FF
  | .r => 0xFFFFEFFF
  | .b => 0xFFFFCFFF

/-- One row of the opcode map: a word belongs to it when `w & mask = op` (30_encoding.md R86). -/
structure Row where
  mnemonic : Mnemonic
  format : Format
  op : Word
deriving DecidableEq, Repr

/-- The opcode map (30_encoding.md R89; opcode_table.json). -/
def opcodeTable : List Row :=
  [ ⟨.nop, .n, 0x00⟩, ⟨.crcCfg, .k, 0x01⟩, ⟨.crcCfgt, .k, 0x02⟩, ⟨.crcVar, .v, 0x03⟩, ⟨.crcInit, .c, 0x04⟩,
    ⟨.crcUpd, .c, 0x05⟩, ⟨.crcFin, .c, 0x06⟩, ⟨.crcCmp, .c, 0x07⟩, ⟨.crcRd, .s, 0x08⟩, ⟨.crcRfl, .r, 0x09⟩ ] ++
  [ ⟨.encI16, .b, 0x10⟩, ⟨.encI32, .b, 0x11⟩, ⟨.encI64, .b, 0x12⟩, ⟨.encF32, .b, 0x13⟩, ⟨.encF64, .b, 0x14⟩,
    ⟨.decI16, .b, 0x18⟩, ⟨.decI32, .b, 0x19⟩, ⟨.decI64, .b, 0x1A⟩, ⟨.decF32, .b, 0x1B⟩, ⟨.decF64, .b, 0x1C⟩ ]

/-- `w & mask = op` (30_encoding.md R86). -/
def Row.accepts (r : Row) (w : Word) : Bool := decide (w &&& r.format.mask = r.op)

/-- Why a word is ILLEGAL (30_encoding.md R91). All four are the same error to a program (ERR = ILLEGAL). -/
inductive IllegalWord where
  /-- OP = w[7:0] has no row in the opcode map. -/
  | unassignedOp (op : Byte)
  /-- OP has a row, and a bit outside its format's fields is set. -/
  | reservedBitSet (op : Byte)
  /-- CRC.VAR with VID 10..15. -/
  | reservedVid (vid : BitVec 4)
  /-- CRC.RD with SEL 6..15. -/
  | reservedSel (sel : BitVec 4)
deriving DecidableEq, Repr

/-- What a word decodes to: exactly one command, or ILLEGAL (30_encoding.md R90). -/
inductive Decoded where
  | command (i : Instr)
  | illegal (why : IllegalWord)
deriving DecidableEq, Repr

/-- OP, w[7:0] (30_encoding.md R81). -/
def fieldOp (w : Word) : Byte := w.extractLsb' 0 8

/-- CTX, w[11:8]. -/
def fieldCtx (w : Word) : Nat := (w.extractLsb' 8 4).toNat

/-- WSEL, w[12]: 0 = 16, 1 = 32. -/
def fieldWsel (w : Word) : CrcWidth := if w.getLsbD 12 then .w32 else .w16

/-- E, w[12]: 0 = little-endian, 1 = big-endian. -/
def fieldE (w : Word) : Endian := if w.getLsbD 12 then .big else .little

/-- RI, w[13]. -/
def fieldRi (w : Word) : Bool := w.getLsbD 13

/-- T, w[13]: 0 = safe, 1 = raw. -/
def fieldT (w : Word) : Tier := if w.getLsbD 13 then .raw else .safe

/-- RO, w[14]. -/
def fieldRo (w : Word) : Bool := w.getLsbD 14

/-- BS, w[15]. -/
def fieldBs (w : Word) : Bool := w.getLsbD 15

/-- VID or SEL, w[19:16]. -/
def fieldVid (w : Word) : BitVec 4 := w.extractLsb' 16 4

/-- The variant a VID names (30_encoding.md R85). -/
def Variant.ofVid (vid : BitVec 4) : Option Variant :=
  match vid.toNat with
  | 0 => some .ibm
  | 1 => some .ccittFalse
  | 2 => some .ccittXmodem
  | 3 => some .ccittAug
  | 4 => some .ccittKermit
  | 5 => some .ccittKermitLsb
  | 6 => some .ccittMcrf4xx
  | 7 => some .crc32Standard
  | 8 => some .crc32q
  | 9 => some .crc32Posix
  | _ => none

/-- The accessor a SEL names (30_encoding.md R85). -/
def Selector.ofSel (sel : BitVec 4) : Option Selector :=
  match sel.toNat with
  | 0 => some .poly
  | 1 => some .seed
  | 2 => some .xorout
  | 3 => some .flags
  | 4 => some .reg
  | 5 => some .table
  | _ => none

/-- A row's command with the fields of its format (30_encoding.md R81, R90). -/
def decodeFields (m : Mnemonic) (w : Word) : Decoded :=
  match m with
  | .nop => .command .nop
  | .crcCfg => .command (.crcCfg (fieldCtx w) (fieldWsel w) (fieldRi w) (fieldRo w) (fieldBs w))
  | .crcCfgt => .command (.crcCfgt (fieldCtx w) (fieldWsel w) (fieldRi w) (fieldRo w) (fieldBs w))
  | .crcVar =>
    match Variant.ofVid (fieldVid w) with
    | some v => .command (.crcVar (fieldCtx w) v)
    | none => .illegal (.reservedVid (fieldVid w))
  | .crcInit => .command (.crcInit (fieldCtx w))
  | .crcUpd => .command (.crcUpd (fieldCtx w))
  | .crcFin => .command (.crcFin (fieldCtx w))
  | .crcCmp => .command (.crcCmp (fieldCtx w))
  | .crcRd =>
    match Selector.ofSel (fieldVid w) with
    | some sel => .command (.crcRd (fieldCtx w) sel)
    | none => .illegal (.reservedSel (fieldVid w))
  | .crcRfl => .command (.crcRfl (fieldWsel w))
  | .encI16 => .command (.encI16 (fieldE w) (fieldT w))
  | .encI32 => .command (.encI32 (fieldE w) (fieldT w))
  | .encI64 => .command (.encI64 (fieldE w) (fieldT w))
  | .encF32 => .command (.encF32 (fieldE w) (fieldT w))
  | .encF64 => .command (.encF64 (fieldE w) (fieldT w))
  | .decI16 => .command (.decI16 (fieldE w) (fieldT w))
  | .decI32 => .command (.decI32 (fieldE w) (fieldT w))
  | .decI64 => .command (.decI64 (fieldE w) (fieldT w))
  | .decF32 => .command (.decF32 (fieldE w) (fieldT w))
  | .decF64 => .command (.decF64 (fieldE w) (fieldT w))

/-- The name of a word's rejection when no row accepts it (30_encoding.md R91). -/
def rejection (w : Word) : IllegalWord :=
  if opcodeTable.any (fun r => decide (fieldOp r.op = fieldOp w)) then .reservedBitSet (fieldOp w)
  else .unassignedOp (fieldOp w)

/-- 30_encoding.md R90: the first row that accepts the word gives the command. -/
def decode (w : Word) : Decoded :=
  match opcodeTable.find? (fun r => r.accepts w) with
  | some r => decodeFields r.mnemonic w
  | none => .illegal (rejection w)

/-- The command of a word, if it is one. -/
def Decoded.toOption : Decoded → Option Instr
  | .command i => some i
  | .illegal _ => none

/-- The command the decoder reads from a table row's bits: `nbits` bits of `w`, all bits above them 0; a command is one
32-bit word (30_encoding.md R80). -/
def decodeTableWord (nbits w : Nat) : Option Instr :=
  if nbits ≤ 32 then (decode (BitVec.ofNat 32 (w % 2 ^ nbits))).toOption else none

/-! ## The encoder -/

/-- The VID of a variant (30_encoding.md R85). -/
def Variant.vid : Variant → BitVec 4
  | .ibm => 0
  | .ccittFalse => 1
  | .ccittXmodem => 2
  | .ccittAug => 3
  | .ccittKermit => 4
  | .ccittKermitLsb => 5
  | .ccittMcrf4xx => 6
  | .crc32Standard => 7
  | .crc32q => 8
  | .crc32Posix => 9

/-- The SEL of an accessor (30_encoding.md R85). -/
def Selector.sel : Selector → BitVec 4
  | .poly => 0
  | .seed => 1
  | .xorout => 2
  | .flags => 3
  | .reg => 4
  | .table => 5

/-- WSEL as a bit. -/
def CrcWidth.bit : CrcWidth → Bool
  | .w16 => false
  | .w32 => true

/-- E as a bit. -/
def Endian.bit : Endian → Bool
  | .little => false
  | .big => true

/-- T as a bit. -/
def Tier.bit : Tier → Bool
  | .safe => false
  | .raw => true

/-- One bit at its place in the command word. -/
def placeBit (b : Bool) (at_ : Nat) : Word := (BitVec.ofBool b).setWidth 32 <<< at_

/-- A four-bit field at its place in the command word. -/
def placeNibble (v : BitVec 4) (at_ : Nat) : Word := v.setWidth 32 <<< at_

/-- CTX at w[11:8]. -/
def placeCtx (ctx : Nat) : Word := placeNibble (BitVec.ofNat 4 ctx) 8

/-- Format K's fields (30_encoding.md R86: `borw cccc`). -/
def placeK (ctx : Nat) (width : CrcWidth) (ri ro bs : Bool) : Word :=
  placeCtx ctx ||| placeBit width.bit 12 ||| placeBit ri 13 ||| placeBit ro 14 ||| placeBit bs 15

/-- Format B's fields (30_encoding.md R86: `te`). -/
def placeB (e : Endian) (t : Tier) : Word := placeBit e.bit 12 ||| placeBit t.bit 13

/-- The word of a command (30_encoding.md R86, R89). -/
def encode : Instr → Word
  | .nop => 0x00
  | .crcCfg ctx width ri ro bs => 0x01 ||| placeK ctx width ri ro bs
  | .crcCfgt ctx width ri ro bs => 0x02 ||| placeK ctx width ri ro bs
  | .crcVar ctx v => 0x03 ||| placeCtx ctx ||| placeNibble v.vid 16
  | .crcInit ctx => 0x04 ||| placeCtx ctx
  | .crcUpd ctx => 0x05 ||| placeCtx ctx
  | .crcFin ctx => 0x06 ||| placeCtx ctx
  | .crcCmp ctx => 0x07 ||| placeCtx ctx
  | .crcRd ctx sel => 0x08 ||| placeCtx ctx ||| placeNibble sel.sel 16
  | .crcRfl width => 0x09 ||| placeBit width.bit 12
  | .encI16 e t => 0x10 ||| placeB e t
  | .encI32 e t => 0x11 ||| placeB e t
  | .encI64 e t => 0x12 ||| placeB e t
  | .encF32 e t => 0x13 ||| placeB e t
  | .encF64 e t => 0x14 ||| placeB e t
  | .decI16 e t => 0x18 ||| placeB e t
  | .decI32 e t => 0x19 ||| placeB e t
  | .decI64 e t => 0x1A ||| placeB e t
  | .decF32 e t => 0x1B ||| placeB e t
  | .decF64 e t => 0x1C ||| placeB e t

end Sys2Proof
end

