-- ==== Sys2Proof/Machine/State.lean ====
section
/-! DEFINITION. The complete state of one CRCBC (10_state.md R20) as plain data, with its configuration, the host accesses it
has not accepted yet and its answers, and the state after a hardware reset (R35). -/
namespace Sys2Proof.Machine

/-- The outcome code STATUS.ERR (60_exceptions.md R180); codes 6..15 are never reported. -/
inductive ErrCode where
  | ok
  | illegal
  | badctx
  | nocfg
  | bounds
  | construct
deriving DecidableEq, Repr

/-- STATUS (10_state.md R27): ERR and STICKY; every other bit reads 0 and ignores writes. -/
structure Status where
  err : ErrCode
  sticky : Bool
deriving DecidableEq, Repr

/-- The construction parameters of a context of width `w` (10_state.md R28). -/
structure CrcParams (w : Nat) where
  /-- The generator polynomial as constructed, never reflected. -/
  poly : BitVec w
  seed : BitVec w
  xorout : BitVec w
  ri : Bool
  ro : Bool
  bs : Bool
deriving DecidableEq, Repr

/-- TABLE: exactly 256 entries of exactly `w` bits (00_scope.md R8; 10_state.md R28). -/
abbrev CrcTable (w : Nat) := Vector (BitVec w) 256

/-- A configured context of width `w` (10_state.md R28); VALID = 1 is that it exists. -/
structure CrcOf (w : Nat) where
  params : CrcParams w
  table : CrcTable w
  /-- REG, the running register, before finalization. -/
  reg : BitVec w
deriving DecidableEq, Repr

/-- A configured context; WSEL is the constructor (10_state.md R28: the W-bit fields are exactly W bits). -/
inductive Crc where
  | w16 (c : CrcOf 16)
  | w32 (c : CrcOf 32)
deriving DecidableEq, Repr

/-- BUF as the bytes written since the last hardware reset: (offset, byte) pairs, offsets strictly rising. An offset not
listed holds the free byte of the present draw (10_state.md R30, R35; log entries 4 and 7). -/
abbrev Memory := List Host.Cell

/-- The width of a host access (20_memory.md R61, R62). -/
inductive AccessSize where
  | b8
  | b16
  | b32
  | b64
deriving DecidableEq, Repr

/-- What the outside world does to CRCBC, one at a time: a host access at a window offset (20_memory.md R60; the widths R62
answers with a bus error are here too), or the platform's hardware reset (70_reset_and_hazards.md R210; log entry 10). -/
inductive HostOp where
  | rd (size : AccessSize) (a : Offset)
  | wr8 (a : Offset) (v : BitVec 8)
  | wr16 (a : Offset) (v : BitVec 16)
  | wr32 (a : Offset) (v : BitVec 32)
  | wr64 (a : Offset) (v : BitVec 64)
  | hwReset
deriving DecidableEq, Repr

/-- What CRCBC answers to a host access: a write was accepted, a read's value, or a bus error (20_memory.md R61, R62). -/
inductive Reply where
  | done
  | data32 (v : Word)
  | data8 (v : Byte)
  | busError (a : Offset) (size : AccessSize)
deriving DecidableEq, Repr

/-- A codec command, as the fault of 60_exceptions.md R188 names it. -/
inductive CodecOp where
  | encI16 | encI32 | encI64 | encF32 | encF64
  | decI16 | decI32 | decI64 | decF32 | decF64
deriving DecidableEq, Repr

/-- The causes of undefined behaviour; the spec has one (60_exceptions.md R188). -/
inductive UndefinedCause where
  /-- A raw-tier codec command whose bytes are not all inside BUF, and the offset it was given (41_codec.md R145). -/
  | rawOutOfBounds (op : CodecOp) (off : Nat)
deriving DecidableEq, Repr

/-- How a step can stop. -/
inductive Fault where
  /-- Raised by ENC.* and DEC.* with T = 1 when `off + N/8 > BUF_SIZE`: the spec says there is no next state (41_codec.md
  R145; 60_exceptions.md R188). Safe: nothing can be claimed of a run that reaches it. -/
  | undefinedBehaviour (cause : UndefinedCause)
deriving DecidableEq, Repr

/-- Why an instruction has no meaning. -/
inductive Refusal where
  /-- Raised by exec for an instruction without a meaning; no arm of this model raises it. Safe: the model stops. -/
  | notModelled (mnemonic : String)
deriving DecidableEq, Repr

/-- The state of one CRCBC (10_state.md R20) with its configuration (00_scope.md R18). -/
structure State where
  /-- The configuration; no step changes it (log entry 5). -/
  cfg : Config
  arg0 : DWord
  arg1 : DWord
  arg2 : DWord
  arg3 : DWord
  result : DWord
  status : Status
  lastcmd : Word
  /-- The contexts 0..NUM_CTX-1; `none` is VALID = 0, whose other fields hold no value (10_state.md R37). -/
  ctx : List (Option Crc)
  /-- The bytes of BUF that something wrote. -/
  buf : Memory
  /-- The model's own: the number of the present draw of BUF's unspecified bytes (log entry 4). -/
  bufDraw : Nat
  /-- The model's own: the host accesses not yet accepted, next first (log entry 1). -/
  pending : List HostOp
  /-- The model's own: the answers given so far, newest first (log entry 1). -/
  replies : List Reply
deriving DecidableEq, Repr

/-- Right after a hardware reset (10_state.md R35), in the reference configuration (00_scope.md R7; log entry 5), with no host
access pending. -/
def State.reset : State where
  cfg := Config.reference
  arg0 := 0
  arg1 := 0
  arg2 := 0
  arg3 := 0
  result := 0
  status := { err := .ok, sticky := false }
  lastcmd := 0
  ctx := List.replicate Config.reference.numCtx none
  buf := []
  bufDraw := 0
  pending := []
  replies := []

/-- What a command or a host access ends in. -/
abbrev Outcome := Host.Outcome State Fault Refusal

end Sys2Proof.Machine
end

