-- ==== Sys2Proof/Machine/Bits.lean ====
section
/-! DEFINITION. The bit and byte primitives of 00_scope.md R13 and R14, at every width. -/
namespace Sys2Proof.Machine

/-- `reflect_W(v)[i] = v[W-1-i]` (00_scope.md R13; 40_crc.md R101). -/
def reflect {w : Nat} (v : BitVec w) : BitVec w := v.reverse

/-- `le_bytes_W(v)`: W/8 bytes, byte k at position k (00_scope.md R14). -/
def leBytes {w : Nat} (v : BitVec w) : List Byte := (List.range (w / 8)).map fun k => v.extractLsb' (8 * k) 8

/-- `be_bytes_W(v)`: the same list reversed (00_scope.md R14). -/
def beBytes {w : Nat} (v : BitVec w) : List Byte := (leBytes v).reverse

/-- `from_le(bs)`: the W-bit value whose byte k is bs[k] (00_scope.md R14). -/
def fromLE (w : Nat) : List Byte → BitVec w
  | [] => 0
  | b :: bs => b.setWidth w ||| (fromLE w bs <<< 8)

/-- `from_be(bs)`: the W-bit value whose byte k is bs[len-1-k] (00_scope.md R14). -/
def fromBE (w : Nat) (bs : List Byte) : BitVec w := fromLE w bs.reverse

/-- `bswap_W(v)`: byte k of the result is byte W/8-1-k of v (00_scope.md R13). -/
def bswap {w : Nat} (v : BitVec w) : BitVec w := fromBE w (leBytes v)

/-- The bytes of a value in a byte order, lowest offset first (41_codec.md R143). -/
def orderedBytes {w : Nat} (e : Endian) (v : BitVec w) : List Byte :=
  match e with
  | .little => leBytes v
  | .big => beBytes v

/-- The value of bytes in a byte order, lowest offset first (41_codec.md R143). -/
def fromOrdered (w : Nat) (e : Endian) (bs : List Byte) : BitVec w :=
  match e with
  | .little => fromLE w bs
  | .big => fromBE w bs

/-- Bits 31:0 of a 64-bit register (10_state.md R22, R25). -/
def loHalf (v : DWord) : Word := v.extractLsb' 0 32

/-- Bits 63:32 of a 64-bit register. -/
def hiHalf (v : DWord) : Word := v.extractLsb' 32 32

/-- A 64-bit register with its low half replaced, its high half kept (10_state.md R25). -/
def withLo (v : DWord) (lo : Word) : DWord := hiHalf v ++ lo

/-- A 64-bit register with its high half replaced, its low half kept (10_state.md R25). -/
def withHi (v : DWord) (hi : Word) : DWord := hi ++ loHalf v

end Sys2Proof.Machine
end

