-- ==== Sys2Proof/Machine/Flags.lean ====
section
/-! DEFINITION. STATUS: its error codes, its word, what every command writes to it and what a host write clears
(10_state.md R27; 60_exceptions.md R180). -/
namespace Sys2Proof.Machine

/-- The number of an error code (60_exceptions.md R180). -/
def ErrCode.code : ErrCode → BitVec 4
  | .ok => 0
  | .illegal => 1
  | .badctx => 2
  | .nocfg => 3
  | .bounds => 4
  | .construct => 5

/-- STATUS as the host reads it: ERR in bits 3:0, STICKY in bit 8, every other bit 0 (10_state.md R27). -/
def Status.toWord (st : Status) : Word :=
  st.err.code.setWidth 32 ||| ((BitVec.ofBool st.sticky).setWidth 32 <<< 8)

/-- STATUS at the end of a command with outcome `e`: ERR <- e and STICKY <- STICKY | (ERR ≠ 0) (10_state.md R27). -/
def Status.after (st : Status) (e : ErrCode) : Status :=
  { err := e, sticky := st.sticky || decide (e ≠ .ok) }

/-- A host write of `v` to STATUS: bit 8 = 1 clears STICKY, nothing else changes (10_state.md R27). -/
def Status.hostWrite (st : Status) (v : Word) : Status :=
  { st with sticky := st.sticky && !v.getLsbD 8 }

end Sys2Proof.Machine
end

