-- ==== Sys2Proof/Machine/Ops.lean ====
section
/-! DEFINITION. The named operations over BUF, the contexts, RESULT and STATUS: reading and writing bytes of BUF
(10_state.md R30), the bounds rule (20_memory.md R55), the checks every context command begins with (60_exceptions.md R182,
R183), ending a command (10_state.md R27; 60_exceptions.md R181), and the two resets (70_reset_and_hazards.md R210, R212). -/
namespace Sys2Proof.Machine

/-! ## BUF -/

/-- The canonical form: offsets strictly rising, so that each is listed once. -/
abbrev Memory.wf (m : Memory) : Prop := m.Pairwise fun x y => x.1 < y.1

/-- The byte written at an offset, if something wrote it. -/
def Memory.written : Memory → Nat → Option Byte
  | [], _ => none
  | (k, b) :: m, a => if a = k then some b else Memory.written m a

/-- Writes one byte, keeping the offsets in order. -/
def Memory.store : Memory → Nat → Byte → Memory
  | [], a, v => [(a, v)]
  | (k, b) :: m, a, v =>
    if a < k then (a, v) :: (k, b) :: m else if a = k then (a, v) :: m else (k, b) :: Memory.store m a v

/-- Writes bytes at `off`, `off + 1`, ... (00_scope.md R12, BufWrite). -/
def Memory.storeAll : Memory → Nat → List Byte → Memory
  | m, _, [] => m
  | m, off, b :: bs => Memory.storeAll (Memory.store m off b) (off + 1) bs

/-- BUF[off]: the byte last written there, else the free byte of the present draw (10_state.md R30, R35). -/
def State.byteAt (s : State) (off : Nat) : Byte :=
  (s.buf.written off).getD (Config.powerOnByte s.bufDraw off)

/-- BufRead(off, n): BUF[off], ..., BUF[off+n-1] (00_scope.md R12). -/
def State.bufRead (s : State) (off n : Nat) : List Byte :=
  (List.range n).map fun k => s.byteAt (off + k)

/-- BufWrite(off, bytes): BUF[off+k] <- bytes[k] for each k (00_scope.md R12). -/
def State.bufWrite (s : State) (off : Nat) (bs : List Byte) : State :=
  { s with buf := s.buf.storeAll off bs }

/-! ## Ending a command -/

/-- A command ends: STATUS.ERR <- e, STICKY as 10_state.md R27 says, nothing else. -/
def State.endWith (s : State) (e : ErrCode) : State :=
  { s with status := s.status.after e }

/-- The command completes: ERR <- 0, STICKY unchanged (10_state.md R27). -/
def complete (s : State) : Outcome := .next (s.endWith .ok)

/-- `raise Err(code)`: the command ends at once with that code and no other effect (60_exceptions.md R181, R190): the one
operation by which every command reports an error. -/
def raiseErr (e : ErrCode) (s : State) : Outcome := .next (s.endWith e)

/-- After an error nothing has to be left or restored; clearing STICKY by a host write of 1 to STATUS bit 8 is the only
acknowledgement (60_exceptions.md R191; 10_state.md R27). -/
def State.writeStatus (s : State) (v : Word) : State := { s with status := s.status.hostWrite v }

/-- RESULT <- v (00_scope.md R12; 10_state.md R26). -/
def State.setResult (s : State) (v : DWord) : State := { s with result := v }

/-! ## Contexts and checks -/

/-- The configured context c, or none where VALID = 0 (10_state.md R28, R37). -/
def State.context (s : State) (c : Nat) : Option Crc := (s.ctx[c]?).join

/-- `ctx[c] <- k`: the whole context is replaced (10_state.md R29). -/
def State.setContext (s : State) (c : Nat) (k : Crc) : State := { s with ctx := s.ctx.set c (some k) }

/-- The first check of every command with a CTX field: CTX ≥ NUM_CTX raises BADCTX (60_exceptions.md R182). -/
def checkIndex (c : Nat) (s : State) (body : Outcome) : Outcome :=
  if c < s.cfg.numCtx then body else raiseErr .badctx s

/-- The checks of a command that uses a configured context: BADCTX, then NOCFG (60_exceptions.md R182-R184). -/
def useContext (c : Nat) (s : State) (body : Crc → Outcome) : Outcome :=
  checkIndex c s <|
    match s.context c with
    | none => raiseErr .nocfg s
    | some k => body k

/-- The bounds rule: the range of n bytes at off lies inside BUF, over naturals (20_memory.md R55, R56). -/
def State.inBounds (s : State) (off n : Nat) : Bool := decide (off + n ≤ s.cfg.bufSize)

/-- Checks a BUF range before any access; outside, the command ends with its bounds error (20_memory.md R55). -/
def checkBounds (off n : Nat) (e : ErrCode) (s : State) (body : Outcome) : Outcome :=
  if s.inBounds off n then body else raiseErr e s

/-! ## Resets -/

/-- Soft reset: every item takes its reset value except BUF, which keeps its contents (70_reset_and_hazards.md R212). What
the host has still to do and has been answered is the host's, not CRCBC's state. -/
def State.softReset (s : State) : State :=
  { s with
    arg0 := 0, arg1 := 0, arg2 := 0, arg3 := 0, result := 0
    status := { err := .ok, sticky := false }
    lastcmd := 0
    ctx := List.replicate s.cfg.numCtx none }

/-- Hardware reset: as the soft reset, and BUF holds unspecified bytes, a new draw (70_reset_and_hazards.md R210). -/
def State.hardReset (s : State) : State :=
  { s.softReset with buf := [], bufDraw := s.bufDraw + 1 }

/-! ## Outcomes -/

/-- Applies a change to the next state, if there is one. -/
def mapNext (f : State → State) : Outcome → Outcome
  | .next s => .next (f s)
  | .fault r => .fault r
  | .refused r => .refused r

end Sys2Proof.Machine
end

