-- ==== Sys2Proof/Machine/Operands.lean ====
section
/-! DEFINITION. Operand assembly (30_encoding.md R87, R88): how a command reads each ARG register. A CRC operand is `trunc_W`, a
codec value `trunc_N(ARG0)`, an offset, count or index the whole register as a natural number. -/
namespace Sys2Proof.Machine

/-- `trunc_W(ARGn)`: bits W-1..0 (00_scope.md R11; 30_encoding.md R88). -/
def trunc (w : Nat) (v : DWord) : BitVec w := v.setWidth w

/-- ARG0 as an offset: CRC.UPD, CRC.FIN, CRC.CMP (30_encoding.md R87). -/
def State.offset0 (s : State) : Nat := s.arg0.toNat

/-- ARG1 as an offset: ENC.*, DEC.* (30_encoding.md R87). -/
def State.offset1 (s : State) : Nat := s.arg1.toNat

/-- ARG1 as a count: CRC.UPD, CRC.CMP. -/
def State.count1 (s : State) : Nat := s.arg1.toNat

/-- ARG3 as the offset of a table image: CRC.CFGT. -/
def State.offset3 (s : State) : Nat := s.arg3.toNat

/-- ARG0 as a table index: CRC.RD with SEL = 5. -/
def State.index0 (s : State) : Nat := s.arg0.toNat

/-- `zext_64(v)`: a value of a CRC command or of DEC.F32 in RESULT (40_crc.md R121; 41_codec.md R148). -/
def zext64 {w : Nat} (v : BitVec w) : DWord := v.setWidth 64

/-- `sext_64(v)`: a decoded signed integer in RESULT (41_codec.md R148). -/
def sext64 {w : Nat} (v : BitVec w) : DWord := v.signExtend 64

/-- The construction parameters a CRC.CFG or CRC.CFGT command takes from ARG0, ARG1 and ARG2 and its own flags
(30_encoding.md R83, R87). -/
def State.paramsFromArgs (s : State) (w : Nat) (ri ro bs : Bool) : CrcParams w :=
  { poly := trunc w s.arg0, seed := trunc w s.arg1, xorout := trunc w s.arg2, ri := ri, ro := ro, bs := bs }

end Sys2Proof.Machine
end

