-- ==== Sys2Proof/Machine/Codec.lean ====
section
/-! DEFINITION. What the codec commands share (41_codec.md R141-R148): the bytes each tier writes and the value each tier reads,
the bounds rule of each tier, and the common ENC and DEC operations of sections 2 and 3. -/
namespace Sys2Proof.Machine

/-- The bytes a tier writes for a value. The safe tier puts them in the order E (41_codec.md R143). The raw tier makes one
access in the order NATIVE_ENDIAN, of the value itself where E is that order and of its byte swap otherwise (R146). -/
def encodedBytes {w : Nat} (native : Endian) (e : Endian) (t : Tier) (v : BitVec w) : List Byte :=
  match t with
  | .safe => orderedBytes e v
  | .raw => if e = native then orderedBytes native v else orderedBytes native (bswap v)

/-- The value a tier reads from bytes, by the same rule (41_codec.md R143, R146). -/
def decodedValue (w : Nat) (native : Endian) (e : Endian) (t : Tier) (bs : List Byte) : BitVec w :=
  match t with
  | .safe => fromOrdered w e bs
  | .raw => if e = native then fromOrdered w native bs else bswap (fromOrdered w native bs)

/-- The codec's bounds rule: outside BUF the safe tier raises BOUNDS and the raw tier is undefined behaviour (41_codec.md R144,
R145; 60_exceptions.md R188). -/
def codecBounds (op : CodecOp) (t : Tier) (off n : Nat) (s : State) (body : Outcome) : Outcome :=
  if s.inBounds off n then body
  else
    match t with
    | .safe => raiseErr .bounds s
    | .raw => .fault (.undefinedBehaviour (.rawOutOfBounds op off))

/-- ENC(N): `v = trunc_N(ARG0)` into BUF at ARG1 (41_codec.md section 2, R142). -/
def encodeValue (op : CodecOp) (w : Nat) (e : Endian) (t : Tier) (s : State) : Outcome :=
  codecBounds op t s.offset1 (w / 8) s <|
    complete (s.bufWrite s.offset1 (encodedBytes s.cfg.nativeEndian e t (trunc w s.arg0)))

/-- DEC(N, widen): the N-bit value of BUF at ARG1, widened into RESULT (41_codec.md section 3, R148). -/
def decodeValue (op : CodecOp) (w : Nat) (widen : BitVec w → DWord) (e : Endian) (t : Tier) (s : State) : Outcome :=
  codecBounds op t s.offset1 (w / 8) s <|
    complete (s.setResult (widen (decodedValue w s.cfg.nativeEndian e t (s.bufRead s.offset1 (w / 8)))))

end Sys2Proof.Machine
end

