-- ==== Sys2Proof/Machine/CodecDec.lean ====
section
/-! DEFINITION. The decode commands (41_codec.md R155-R159). Integers are sign-extended, a binary32 pattern is zero-extended
(R148). -/
namespace Sys2Proof.Machine

/-- DEC.I16 (41_codec.md R155). -/
def execDecI16 (e : Endian) (t : Tier) (s : State) : Outcome := decodeValue .decI16 16 sext64 e t s

/-- DEC.I32 (41_codec.md R156). -/
def execDecI32 (e : Endian) (t : Tier) (s : State) : Outcome := decodeValue .decI32 32 sext64 e t s

/-- DEC.I64 (41_codec.md R157). -/
def execDecI64 (e : Endian) (t : Tier) (s : State) : Outcome := decodeValue .decI64 64 (fun v => v) e t s

/-- DEC.F32 (41_codec.md R158). -/
def execDecF32 (e : Endian) (t : Tier) (s : State) : Outcome := decodeValue .decF32 32 zext64 e t s

/-- DEC.F64 (41_codec.md R159). -/
def execDecF64 (e : Endian) (t : Tier) (s : State) : Outcome := decodeValue .decF64 64 (fun v => v) e t s

end Sys2Proof.Machine
end

