-- ==== Sys2Proof/Machine/CodecEnc.lean ====
section
/-! DEFINITION. The encode commands (41_codec.md R150-R154). Floating point is bit patterns only (R147). -/
namespace Sys2Proof.Machine

/-- ENC.I16 (41_codec.md R150). -/
def execEncI16 (e : Endian) (t : Tier) (s : State) : Outcome := encodeValue .encI16 16 e t s

/-- ENC.I32 (41_codec.md R151). -/
def execEncI32 (e : Endian) (t : Tier) (s : State) : Outcome := encodeValue .encI32 32 e t s

/-- ENC.I64 (41_codec.md R152). -/
def execEncI64 (e : Endian) (t : Tier) (s : State) : Outcome := encodeValue .encI64 64 e t s

/-- ENC.F32: the binary32 pattern ARG0[31:0] (41_codec.md R153). -/
def execEncF32 (e : Endian) (t : Tier) (s : State) : Outcome := encodeValue .encF32 32 e t s

/-- ENC.F64: the binary64 pattern ARG0 (41_codec.md R154). -/
def execEncF64 (e : Endian) (t : Tier) (s : State) : Outcome := encodeValue .encF64 64 e t s

end Sys2Proof.Machine
end

