-- ==== Sys2Proof/Machine/CrcCore.lean ====
section
/-! DEFINITION. The CRC engine's primitives (40_crc.md R100-R114) at width W, and the named variants (R104). -/
namespace Sys2Proof.Machine

/-! ## Table generation -/

/-- One iteration of the shift-right generation (40_crc.md R102). -/
def shiftRightBit {w : Nat} (p r : BitVec w) : BitVec w := if r.getLsbD 0 then (r >>> 1) ^^^ p else r >>> 1

/-- One iteration of the shift-left generation; the shift is truncated to W bits (40_crc.md R103). -/
def shiftLeftBit {w : Nat} (p r : BitVec w) : BitVec w := if r.getLsbD (w - 1) then (r <<< 1) ^^^ p else r <<< 1

/-- Entry i of `gen_right(W, poly)` (40_crc.md R102). -/
def rightEntry {w : Nat} (poly : BitVec w) (i : Byte) : BitVec w :=
  Nat.repeat (shiftRightBit (reflect poly)) 8 (i.setWidth w)

/-- Entry i of `gen_left(W, poly)`: the byte starts in bits W-1..W-8 (40_crc.md R103). -/
def leftEntry {w : Nat} (poly : BitVec w) (i : Byte) : BitVec w :=
  Nat.repeat (shiftLeftBit poly) 8 (i.setWidth w <<< (w - 8))

/-- The table whose entry i is `f i`. -/
def tableOf {w : Nat} (f : Byte → BitVec w) : CrcTable w :=
  ⟨((List.range 256).map fun i => f (BitVec.ofNat 8 i)).toArray, by simp⟩

/-- `gen_table(W, poly, ri)` (40_crc.md R108). -/
def genTable {w : Nat} (poly : BitVec w) (ri : Bool) : CrcTable w :=
  if ri then tableOf (rightEntry poly) else tableOf (leftEntry poly)

/-- T[i] for a byte i. -/
def tableAt {w : Nat} (t : CrcTable w) (i : Byte) : BitVec w := t[i.toNat]'i.isLt

/-- The table of a CRC.CFGT image at `off`: entry i is the W/8 little-endian bytes at `off + i*(W/8)` (20_memory.md R53;
40_crc.md R116). -/
def imageTable (w : Nat) (s : State) (off : Nat) : CrcTable w :=
  tableOf fun i => fromLE w (s.bufRead (off + i.toNat * (w / 8)) (w / 8))

/-! ## Update and finalization -/

/-- `step_right` (40_crc.md R109). -/
def stepRight {w : Nat} (t : CrcTable w) (reg : BitVec w) (b : Byte) : BitVec w :=
  (reg >>> 8) ^^^ tableAt t (b ^^^ reg.extractLsb' 0 8)

/-- `step_left`; the shift is truncated to W bits (40_crc.md R110). -/
def stepLeft {w : Nat} (t : CrcTable w) (reg : BitVec w) (b : Byte) : BitVec w :=
  (reg <<< 8) ^^^ tableAt t (b ^^^ reg.extractLsb' (w - 8) 8)

/-- One byte into the register, by the context's reflect-input flag (40_crc.md R111). -/
def CrcOf.stepByte {w : Nat} (c : CrcOf w) (reg : BitVec w) (b : Byte) : BitVec w :=
  if c.params.ri then stepRight c.table reg b else stepLeft c.table reg b

/-- `fold(ctx, reg, bytes)` (40_crc.md R111). -/
def CrcOf.fold {w : Nat} (c : CrcOf w) (reg : BitVec w) (bs : List Byte) : BitVec w := bs.foldl c.stepByte reg

/-- F: reflect if RI ≠ RO, then XOR the mask, then swap bytes if BS (40_crc.md R112; 90_conflicts.md C2, C3). -/
def CrcParams.finalize {w : Nat} (p : CrcParams w) (reg : BitVec w) : BitVec w :=
  let e := if p.ri ≠ p.ro then reflect reg else reg
  let e := e ^^^ p.xorout
  if p.bs then bswap e else e

/-- F_inv, the register whose digest value is `v` (40_crc.md R112). -/
def CrcParams.unfinalize {w : Nat} (p : CrcParams w) (v : BitVec w) : BitVec w :=
  let e := if p.bs then bswap v else v
  let e := e ^^^ p.xorout
  if p.ri ≠ p.ro then reflect e else e

/-- A new context: its parameters, its table, and REG at the seed (40_crc.md R115). -/
def CrcOf.construct {w : Nat} (p : CrcParams w) (t : CrcTable w) : CrcOf w := { params := p, table := t, reg := p.seed }

/-- A context whose table is generated (40_crc.md R108, R115). -/
def CrcOf.generated {w : Nat} (p : CrcParams w) : CrcOf w := CrcOf.construct p (genTable p.poly p.ri)

/-! ## Contexts of either width -/

/-- WSEL of a context. -/
def Crc.width : Crc → CrcWidth
  | .w16 _ => .w16
  | .w32 _ => .w32

/-- W/8 of a context: the bytes of its digest. -/
def Crc.bytes : Crc → Nat
  | .w16 _ => 2
  | .w32 _ => 4

/-- REG <- SEED (40_crc.md R118). -/
def Crc.init : Crc → Crc
  | .w16 c => .w16 { c with reg := c.params.seed }
  | .w32 c => .w32 { c with reg := c.params.seed }

/-- REG <- fold(ctx, REG, bytes) (40_crc.md R119). -/
def Crc.update (bs : List Byte) : Crc → Crc
  | .w16 c => .w16 { c with reg := c.fold c.reg bs }
  | .w32 c => .w32 { c with reg := c.fold c.reg bs }

/-- zext_64(F(REG)) (40_crc.md R120). -/
def Crc.digestValue : Crc → DWord
  | .w16 c => zext64 (c.params.finalize c.reg)
  | .w32 c => zext64 (c.params.finalize c.reg)

/-- digest(REG): the big-endian bytes of F(REG) (40_crc.md R113). -/
def Crc.digest : Crc → List Byte
  | .w16 c => beBytes (c.params.finalize c.reg)
  | .w32 c => beBytes (c.params.finalize c.reg)

/-- zext_64(F(fold(ctx, trunc_W(seed), bytes))) (40_crc.md R122). -/
def Crc.compute (seed : DWord) (bs : List Byte) : Crc → DWord
  | .w16 c => zext64 (c.params.finalize (c.fold (trunc 16 seed) bs))
  | .w32 c => zext64 (c.params.finalize (c.fold (trunc 32 seed) bs))

/-- FLAGS: bit 0 WSEL, bit 1 RI, bit 2 RO, bit 3 BS (40_crc.md R123). -/
def flagsWord {w : Nat} (wsel : Bool) (p : CrcParams w) : BitVec 4 :=
  BitVec.ofBool p.bs ++ BitVec.ofBool p.ro ++ BitVec.ofBool p.ri ++ BitVec.ofBool wsel

/-- The value an accessor returns, zero-extended, or none where the table index is over 255 (40_crc.md R121, R123). -/
def CrcOf.read {w : Nat} (wsel : Bool) (c : CrcOf w) (i : Nat) : Selector → Option DWord
  | .poly => some (zext64 c.params.poly)
  | .seed => some (zext64 c.params.seed)
  | .xorout => some (zext64 c.params.xorout)
  | .flags => some (zext64 (flagsWord wsel c.params))
  | .reg => some (zext64 c.reg)
  | .table => if h : i < 256 then some (zext64 c.table[i]) else none

/-- CRC.RD's value on a context of either width (40_crc.md R123). -/
def Crc.read (sel : Selector) (i : Nat) : Crc → Option DWord
  | .w16 c => c.read false i sel
  | .w32 c => c.read true i sel

/-! ## Named variants -/

/-- The parameter set of a 16-bit or 32-bit variant. -/
inductive VariantRow where
  | w16 (p : CrcParams 16)
  | w32 (p : CrcParams 32)
deriving DecidableEq, Repr

/-- The table of named variants (40_crc.md R104). -/
def variantRow : Variant → VariantRow
  | .ibm => .w16 { poly := 0x8005, seed := 0x0000, xorout := 0x0000, ri := true, ro := true, bs := false }
  | .ccittFalse => .w16 { poly := 0x1021, seed := 0xFFFF, xorout := 0x0000, ri := false, ro := false, bs := false }
  | .ccittXmodem => .w16 { poly := 0x1021, seed := 0x0000, xorout := 0x0000, ri := false, ro := false, bs := false }
  | .ccittAug => .w16 { poly := 0x1021, seed := 0x1D0F, xorout := 0x0000, ri := false, ro := false, bs := false }
  | .ccittKermit => .w16 { poly := 0x1021, seed := 0x0000, xorout := 0x0000, ri := true, ro := true, bs := false }
  | .ccittKermitLsb => .w16 { poly := 0x1021, seed := 0x0000, xorout := 0x0000, ri := true, ro := true, bs := true }
  | .ccittMcrf4xx => .w16 { poly := 0x1021, seed := 0xFFFF, xorout := 0x0000, ri := true, ro := true, bs := false }
  | .crc32Standard =>
    .w32 { poly := 0x04C11DB7, seed := 0xFFFFFFFF, xorout := 0xFFFFFFFF, ri := true, ro := true, bs := false }
  | .crc32q => .w32 { poly := 0x814141AB, seed := 0x00000000, xorout := 0x00000000, ri := false, ro := false, bs := false }
  | .crc32Posix =>
    .w32 { poly := 0x04C11DB7, seed := 0x00000000, xorout := 0xFFFFFFFF, ri := false, ro := false, bs := false }

/-- The context a row constructs: the generated table and REG at the seed (40_crc.md R106, R117). -/
def VariantRow.construct : VariantRow → Crc
  | .w16 p => .w16 (CrcOf.generated p)
  | .w32 p => .w32 (CrcOf.generated p)

end Sys2Proof.Machine
end

