-- ==== Sys2Proof/Machine/CrcConstruct.lean ====
section
/-! DEFINITION. The construction commands CRC.CFG, CRC.CFGT and CRC.VAR (40_crc.md R115-R117). Each replaces the whole context
(10_state.md R29). -/
namespace Sys2Proof.Machine

/-- CRC.CFG: from raw parameters, with the generated table (40_crc.md R115). -/
def execCrcCfg (c : Nat) (width : CrcWidth) (ri ro bs : Bool) (s : State) : Outcome :=
  checkIndex c s <|
    match width with
    | .w16 => complete (s.setContext c (.w16 (CrcOf.generated (s.paramsFromArgs 16 ri ro bs))))
    | .w32 => complete (s.setContext c (.w32 (CrcOf.generated (s.paramsFromArgs 32 ri ro bs))))

/-- CRC.CFGT: from a table image in BUF at ARG3, copied as it is now; an image not wholly inside BUF raises CONSTRUCT
(40_crc.md R116; 20_memory.md R53, R69). -/
def execCrcCfgt (c : Nat) (width : CrcWidth) (ri ro bs : Bool) (s : State) : Outcome :=
  checkIndex c s <|
    match width with
    | .w16 =>
      checkBounds s.offset3 512 .construct s <|
        complete (s.setContext c
          (.w16 (CrcOf.construct (s.paramsFromArgs 16 ri ro bs) (imageTable 16 s s.offset3))))
    | .w32 =>
      checkBounds s.offset3 1024 .construct s <|
        complete (s.setContext c
          (.w32 (CrcOf.construct (s.paramsFromArgs 32 ri ro bs) (imageTable 32 s s.offset3))))

/-- CRC.VAR: a named variant (40_crc.md R104, R117). -/
def execCrcVar (c : Nat) (v : Variant) (s : State) : Outcome :=
  checkIndex c s <| complete (s.setContext c (variantRow v).construct)

end Sys2Proof.Machine
end

