-- ==== Sys2Proof/Machine/CrcQuery.lean ====
section
/-! DEFINITION. The commands that return a value and change no context: CRC.CMP, CRC.RD and CRC.RFL (40_crc.md R122-R124). -/
namespace Sys2Proof.Machine

/-- CRC.CMP: the digest value over the ARG1 bytes of BUF at ARG0 from the seed in ARG2; REG is neither read nor written
(40_crc.md R122). -/
def execCrcCmp (c : Nat) (s : State) : Outcome :=
  useContext c s fun k =>
    checkBounds s.offset0 s.count1 .bounds s <|
      complete (s.setResult (k.compute s.arg2 (s.bufRead s.offset0 s.count1)))

/-- CRC.RD: a field of the context; a table index over 255 raises BOUNDS (40_crc.md R123). -/
def execCrcRd (c : Nat) (sel : Selector) (s : State) : Outcome :=
  useContext c s fun k =>
    match k.read sel s.index0 with
    | some v => complete (s.setResult v)
    | none => raiseErr .bounds s

/-- CRC.RFL: RESULT <- reflect_W(trunc_W(ARG0)); no context is involved (40_crc.md R124). -/
def execCrcRfl (width : CrcWidth) (s : State) : Outcome :=
  match width with
  | .w16 => complete (s.setResult (zext64 (reflect (trunc 16 s.arg0))))
  | .w32 => complete (s.setResult (zext64 (reflect (trunc 32 s.arg0))))

end Sys2Proof.Machine
end

