-- ==== Sys2Proof/Machine/CrcStream.lean ====
section
/-! DEFINITION. The incremental protocol CRC.INIT, CRC.UPD and CRC.FIN (40_crc.md R118-R120). -/
namespace Sys2Proof.Machine

/-- CRC.INIT: REG <- SEED (40_crc.md R118). -/
def execCrcInit (c : Nat) (s : State) : Outcome :=
  useContext c s fun k => complete (s.setContext c k.init)

/-- CRC.UPD: REG <- fold over the ARG1 bytes of BUF at ARG0 (40_crc.md R119). -/
def execCrcUpd (c : Nat) (s : State) : Outcome :=
  useContext c s fun k =>
    checkBounds s.offset0 s.count1 .bounds s <|
      complete (s.setContext c (k.update (s.bufRead s.offset0 s.count1)))

/-- CRC.FIN: the digest into BUF at ARG0 and its value into RESULT; REG is not changed (40_crc.md R120). -/
def execCrcFin (c : Nat) (s : State) : Outcome :=
  useContext c s fun k =>
    checkBounds s.offset0 k.bytes .bounds s <|
      complete ((s.bufWrite s.offset0 k.digest).setResult k.digestValue)

end Sys2Proof.Machine
end

