-- ==== Sys2Proof/Machine/System.lean ====
section
/-! DEFINITION. The system family: NOP (42_system.md R170). -/
namespace Sys2Proof.Machine

/-- NOP: STATUS.ERR <- 0 and nothing else (42_system.md R170). -/
def execNop (s : State) : Outcome := complete s

end Sys2Proof.Machine
end

