-- ==== Sys2Proof/Machine/Dispatch.lean ====
section
/-! DEFINITION. What each command does: one arm per constructor of Instr, one direct call of its meaning. -/
namespace Sys2Proof.Machine

def exec (i : Instr) (s : State) : Host.Outcome State Fault Refusal :=
  match i with
  | .nop => Sys2Proof.Machine.execNop s
  | .crcCfg c width ri ro bs => Sys2Proof.Machine.execCrcCfg c width ri ro bs s
  | .crcCfgt c width ri ro bs => Sys2Proof.Machine.execCrcCfgt c width ri ro bs s
  | .crcVar c v => Sys2Proof.Machine.execCrcVar c v s
  | .crcInit c => Sys2Proof.Machine.execCrcInit c s
  | .crcUpd c => Sys2Proof.Machine.execCrcUpd c s
  | .crcFin c => Sys2Proof.Machine.execCrcFin c s
  | .crcCmp c => Sys2Proof.Machine.execCrcCmp c s
  | .crcRd c sel => Sys2Proof.Machine.execCrcRd c sel s
  | .crcRfl width => Sys2Proof.Machine.execCrcRfl width s
  | .encI16 e t => Sys2Proof.Machine.execEncI16 e t s
  | .encI32 e t => Sys2Proof.Machine.execEncI32 e t s
  | .encI64 e t => Sys2Proof.Machine.execEncI64 e t s
  | .encF32 e t => Sys2Proof.Machine.execEncF32 e t s
  | .encF64 e t => Sys2Proof.Machine.execEncF64 e t s
  | .decI16 e t => Sys2Proof.Machine.execDecI16 e t s
  | .decI32 e t => Sys2Proof.Machine.execDecI32 e t s
  | .decI64 e t => Sys2Proof.Machine.execDecI64 e t s
  | .decF32 e t => Sys2Proof.Machine.execDecF32 e t s
  | .decF64 e t => Sys2Proof.Machine.execDecF64 e t s

end Sys2Proof.Machine
end

