-- ==== Sys2Proof/Machine/HostBus.lean ====
section
/-! DEFINITION. The host window (10_state.md R22-R38; 20_memory.md R60-R63): which accesses it accepts, what each register
reads as and what a write to it does, and issuing a command by a write to CMD (10_state.md R31). -/
namespace Sys2Proof.Machine

/-- What stands at an offset of the register region (10_state.md R22). -/
inductive WindowReg where
  | id
  | caps
  | bufsz
  | ctrl
  | status
  | cmd
  | arg0Lo | arg0Hi | arg1Lo | arg1Hi | arg2Lo | arg2Hi | arg3Lo | arg3Hi
  | resultLo | resultHi
  | reserved
deriving DecidableEq, Repr

/-- The register map (10_state.md R22); every other offset of the region is reserved (R38). -/
def windowReg (a : Offset) : WindowReg :=
  match a.toNat with
  | 0x0000 => .id
  | 0x0004 => .caps
  | 0x0008 => .bufsz
  | 0x000C => .ctrl
  | 0x0010 => .status
  | 0x0014 => .cmd
  | 0x0020 => .arg0Lo
  | 0x0024 => .arg0Hi
  | 0x0028 => .arg1Lo
  | 0x002C => .arg1Hi
  | 0x0030 => .arg2Lo
  | 0x0034 => .arg2Hi
  | 0x0038 => .arg3Lo
  | 0x003C => .arg3Hi
  | 0x0040 => .resultLo
  | 0x0044 => .resultHi
  | _ => .reserved

/-- The offset of CMD (10_state.md R22, R31). -/
def cmdOffset : Offset := 0x0014

/-- The accesses the window accepts: aligned 32-bit in the register region, 8-bit in the BUF region (20_memory.md R61). -/
def accepted (size : AccessSize) (a : Offset) : Bool :=
  if a.toNat < 0x1000 then decide (size = .b32) && decide (a.toNat % 4 = 0) else decide (size = .b8)

/-- ID: "CRC" and the edition 7 (10_state.md R23). -/
def idWord : Word := 0x43524307

/-- CAPS: NUM_CTX in bits 4:0, NATIVE_ENDIAN in bit 8, every other bit 0 (10_state.md R24). -/
def capsWord (c : Config) : Word :=
  (BitVec.ofNat 5 c.numCtx).setWidth 32 ||| ((BitVec.ofBool c.nativeEndian.bit).setWidth 32 <<< 8)

/-- BUFSZ (10_state.md R24). -/
def bufszWord (c : Config) : Word := BitVec.ofNat 32 c.bufSize

/-- What a register reads as; CTRL and reserved offsets read 0, CMD reads LASTCMD (10_state.md R23-R27, R31, R32, R38). -/
def readReg (s : State) : WindowReg → Word
  | .id => idWord
  | .caps => capsWord s.cfg
  | .bufsz => bufszWord s.cfg
  | .ctrl => 0
  | .status => s.status.toWord
  | .cmd => s.lastcmd
  | .arg0Lo => loHalf s.arg0
  | .arg0Hi => hiHalf s.arg0
  | .arg1Lo => loHalf s.arg1
  | .arg1Hi => hiHalf s.arg1
  | .arg2Lo => loHalf s.arg2
  | .arg2Hi => hiHalf s.arg2
  | .arg3Lo => loHalf s.arg3
  | .arg3Hi => hiHalf s.arg3
  | .resultLo => loHalf s.result
  | .resultHi => hiHalf s.result
  | .reserved => 0

/-- A host write of `w` to CMD: LASTCMD <- w, then w is executed as one command (10_state.md R31); an illegal word ends with
ERR = ILLEGAL and no other effect (30_encoding.md R91; 60_exceptions.md R181). -/
def issue (w : Word) (s : State) : Outcome :=
  let s := { s with lastcmd := w }
  match decode w with
  | .command i => exec i s
  | .illegal _ => raiseErr .illegal s

/-- What a 32-bit write to a register does; read-only registers and reserved offsets ignore it (10_state.md R25-R27, R31, R32,
R38). -/
def writeReg (s : State) (r : WindowReg) (v : Word) : Outcome :=
  match r with
  | .id => .next s
  | .caps => .next s
  | .bufsz => .next s
  | .ctrl => .next (if v.getLsbD 0 then s.softReset else s)
  | .status => .next (s.writeStatus v)
  | .cmd => issue v s
  | .arg0Lo => .next { s with arg0 := withLo s.arg0 v }
  | .arg0Hi => .next { s with arg0 := withHi s.arg0 v }
  | .arg1Lo => .next { s with arg1 := withLo s.arg1 v }
  | .arg1Hi => .next { s with arg1 := withHi s.arg1 v }
  | .arg2Lo => .next { s with arg2 := withLo s.arg2 v }
  | .arg2Hi => .next { s with arg2 := withHi s.arg2 v }
  | .arg3Lo => .next { s with arg3 := withLo s.arg3 v }
  | .arg3Hi => .next { s with arg3 := withHi s.arg3 v }
  | .resultLo => .next s
  | .resultHi => .next s
  | .reserved => .next s

/-- The BUF offset of an offset of the BUF region (10_state.md R22). -/
def bufOffset (a : Offset) : Nat := a.toNat - 0x1000

/-- A host read of the BUF region: BUF[k], or 0 beyond BUF (20_memory.md R61; 10_state.md R38). -/
def readBuf (s : State) (a : Offset) : Byte :=
  if bufOffset a < s.cfg.bufSize then s.byteAt (bufOffset a) else 0

/-- A host write of the BUF region: BUF[k] <- v, ignored beyond BUF (20_memory.md R61; 10_state.md R38). -/
def writeBuf (s : State) (a : Offset) (v : Byte) : State :=
  if bufOffset a < s.cfg.bufSize then s.bufWrite (bufOffset a) [v] else s

/-- The answer to a host read; no read has a side effect (20_memory.md R61-R63). -/
def hostRead (s : State) (size : AccessSize) (a : Offset) : Reply :=
  if accepted size a then
    if a.toNat < 0x1000 then .data32 (readReg s (windowReg a)) else .data8 (readBuf s a)
  else .busError a size

/-- CRCBC answers a host access. -/
def State.answer (s : State) (r : Reply) : State := { s with replies := r :: s.replies }

/-- A bus error: the answer to the host, and no change of CRCBC's state (20_memory.md R62; 60_exceptions.md R187; log entry
3). -/
def busError (s : State) (a : Offset) (size : AccessSize) : Outcome := .next (s.answer (.busError a size))

/-- One host access, or the platform's hardware reset, from receipt to completion (20_memory.md R65; 70_reset_and_hazards.md
R210). -/
def access (op : HostOp) (s : State) : Outcome :=
  match op with
  | .rd size a => .next (s.answer (hostRead s size a))
  | .wr8 a v => if accepted .b8 a then .next ((writeBuf s a v).answer .done) else busError s a .b8
  | .wr16 a _ => busError s a .b16
  | .wr32 a v =>
    if accepted .b32 a then mapNext (fun s' => s'.answer .done) (writeReg s (windowReg a) v) else busError s a .b32
  | .wr64 a _ => busError s a .b64
  | .hwReset => .next s.hardReset

/-! ## Absolute host addresses -/

/-- The window offset of a host address, if it lies in the window (00_scope.md R7; 20_memory.md R50, R60). -/
def windowOffset (c : Config) (addr : Nat) : Option Offset :=
  if c.base ≤ addr ∧ addr < c.base + 0x10000 then some (BitVec.ofNat 16 (addr - c.base)) else none

/-- MemRead(addr, n) as the access CRCBC sees (20_memory.md R60). -/
def memRead (c : Config) (addr : Nat) (size : AccessSize) : Option HostOp := (windowOffset c addr).map (.rd size)

/-- MemWrite(addr, 4, v) as the access CRCBC sees (20_memory.md R60). -/
def memWrite32 (c : Config) (addr : Nat) (v : Word) : Option HostOp := (windowOffset c addr).map fun a => .wr32 a v

/-- MemWrite(addr, 1, v) as the access CRCBC sees (20_memory.md R60). -/
def memWrite8 (c : Config) (addr : Nat) (v : Byte) : Option HostOp := (windowOffset c addr).map fun a => .wr8 a v

end Sys2Proof.Machine
end

