-- ==== Sys2Proof/Machine/Step.lean ====
section
/-! DEFINITION. One step: CRCBC accepts the next pending host access and completes it (20_memory.md R65). With none pending it
waits, and nothing changes (70_reset_and_hazards.md R211; 00_scope.md R17). -/
namespace Sys2Proof.Machine

def step (s : State) : Host.Outcome State Fault Refusal :=
  match s.pending with
  | [] => .next s
  | op :: ops => access op { s with pending := ops }

/-- `s` with a write of the command word to CMD as the very next host access: the only way a command comes to run
(10_state.md R21, R31; log entry 1). -/
def State.withFetchWord (s : State) (nbits w : Nat) : State :=
  { s with pending := .wr32 cmdOffset (BitVec.ofNat 32 (w % 2 ^ nbits)) :: s.pending }

end Sys2Proof.Machine
end

