-- ==== Sys2Proof/Machine/Assembler.lean ====
section
/-! DEFINITION. The assembler side of 30_encoding.md section 5: the written form of each command (R94), host programs as
sequences of host operations (R95) and the pseudo-instructions with their expansions (R96). The machine does not use it. -/
namespace Sys2Proof.Machine

/-! ## Mnemonics (R94) -/

/-- A one-bit operand as written. -/
def bitText (b : Bool) : String := if b then "1" else "0"

/-- A CRC width as written. -/
def widthText : CrcWidth → String
  | .w16 => "16"
  | .w32 => "32"

/-- A context as written. -/
def ctxText (c : Nat) : String := "c" ++ toString c

/-- A variant as written (00_scope.md R16). -/
def variantText : Variant → String
  | .ibm => "IBM"
  | .ccittFalse => "CCITT-FALSE"
  | .ccittXmodem => "CCITT-XMODEM"
  | .ccittAug => "CCITT-AUG"
  | .ccittKermit => "CCITT-KERMIT"
  | .ccittKermitLsb => "CCITT-KERMIT-LSB"
  | .ccittMcrf4xx => "CCITT-MCRF4XX"
  | .crc32Standard => "CRC32-STANDARD"
  | .crc32q => "CRC32Q"
  | .crc32Posix => "CRC32-POSIX"

/-- An accessor as written. -/
def selectorText : Selector → String
  | .poly => "poly"
  | .seed => "seed"
  | .xorout => "xorout"
  | .flags => "flags"
  | .reg => "reg"
  | .table => "table"

/-- The suffixes of a codec command; the safe tier is written without one. -/
def codecText (name : String) (e : Endian) (t : Tier) : String :=
  name ++ (match e with | .little => ".le" | .big => ".be") ++ (match t with | .safe => "" | .raw => ".raw")

/-- The operands of a format K command as written. -/
def cfgText (name : String) (c : Nat) (w : CrcWidth) (ri ro bs : Bool) : String :=
  name ++ " " ++ ctxText c ++ ", " ++ widthText w ++ ", " ++ bitText ri ++ ", " ++ bitText ro ++ ", " ++ bitText bs

/-- The written form of a command (30_encoding.md R94). -/
def asmText : Instr → String
  | .nop => "nop"
  | .crcCfg c w ri ro bs => cfgText "crc.cfg" c w ri ro bs
  | .crcCfgt c w ri ro bs => cfgText "crc.cfgt" c w ri ro bs
  | .crcVar c v => "crc.var " ++ ctxText c ++ ", " ++ variantText v
  | .crcInit c => "crc.init " ++ ctxText c
  | .crcUpd c => "crc.upd " ++ ctxText c
  | .crcFin c => "crc.fin " ++ ctxText c
  | .crcCmp c => "crc.cmp " ++ ctxText c
  | .crcRd c sel => "crc.rd " ++ ctxText c ++ ", " ++ selectorText sel
  | .crcRfl w => "crc.rfl " ++ widthText w
  | .encI16 e t => codecText "enc.i16" e t
  | .encI32 e t => codecText "enc.i32" e t
  | .encI64 e t => codecText "enc.i64" e t
  | .encF32 e t => codecText "enc.f32" e t
  | .encF64 e t => codecText "enc.f64" e t
  | .decI16 e t => codecText "dec.i16" e t
  | .decI32 e t => codecText "dec.i32" e t
  | .decI64 e t => codecText "dec.i64" e t
  | .decF32 e t => codecText "dec.f32" e t
  | .decF64 e t => codecText "dec.f64" e t

/-! ## Host programs and pseudo-instructions (R95, R96) -/

/-- A command line of a host program: `wr32 0x0014, <encoding>` (30_encoding.md R95). -/
def command (i : Instr) : HostOp := .wr32 cmdOffset (encode i)

/-- `crc.cfg c, w, ri`: reflect-out defaults to reflect-in and byte-swap to 0 (30_encoding.md R96, the normative row). -/
def cfgDefault (c : Nat) (w : CrcWidth) (ri : Bool) : Instr := .crcCfg c w ri ri false

/-- `crc.cfgt c, w, ri`, with the same defaults. -/
def cfgtDefault (c : Nat) (w : CrcWidth) (ri : Bool) : Instr := .crcCfgt c w ri ri false

/-- `arg<i> v`: both halves of ARGi. -/
def argOps (i : Fin 4) (v : DWord) : List HostOp :=
  [.wr32 (BitVec.ofNat 16 (0x20 + 8 * i.val)) (loHalf v), .wr32 (BitVec.ofNat 16 (0x24 + 8 * i.val)) (hiHalf v)]

/-- `buf off, b0, b1, ...`: one BUF write a byte. -/
def bufOps (off : Nat) (bs : List Byte) : List HostOp :=
  (List.range bs.length).map fun k => .wr8 (BitVec.ofNat 16 (0x1000 + off + k)) (bs.getD k 0)

/-- `result`: both halves of RESULT, low half first. -/
def resultOps : List HostOp := [.rd .b32 0x0040, .rd .b32 0x0044]

/-- `status`. -/
def statusOps : List HostOp := [.rd .b32 0x0010]

/-- `clrsticky`. -/
def clrstickyOps : List HostOp := [.wr32 0x0010 0x100]

/-- `srst`. -/
def srstOps : List HostOp := [.wr32 0x000C 1]

/-- `crc.compute c, seed, off, count`. -/
def computeOps (c : Nat) (seed off count : DWord) : List HostOp :=
  argOps 0 off ++ argOps 1 count ++ argOps 2 seed ++ [command (.crcCmp c)]

/-- `crc.update c, off, count`. -/
def updateOps (c : Nat) (off count : DWord) : List HostOp := argOps 0 off ++ argOps 1 count ++ [command (.crcUpd c)]

/-- `crc.final c, off`. -/
def finalOps (c : Nat) (off : DWord) : List HostOp := argOps 0 off ++ [command (.crcFin c)]

/-- `encode.<kind>.<e>[.<t>] value, off`, for an encode command `i`. -/
def encodeOps (i : Instr) (value off : DWord) : List HostOp := argOps 0 value ++ argOps 1 off ++ [command i]

/-- `decode.<kind>.<e>[.<t>] off`, for a decode command `i`. -/
def decodeOps (i : Instr) (off : DWord) : List HostOp := argOps 1 off ++ [command i]

end Sys2Proof.Machine
end

