-- ==== Sys2Proof/Safety.lean ====
section
/-! DEFINITION. The terms claims are stated in: the invariant that rules out states no run reaches, the classes of commands the
spec's rules speak of, and what "unchanged" means for each kind of state. -/
namespace Sys2Proof.Machine

/-! ## The invariant -/

/-- The configuration is legal (00_scope.md R7), there are exactly NUM_CTX contexts (10_state.md R20), BUF's written bytes are in
canonical form and inside BUF (10_state.md R30). -/
structure State.Wf (s : State) : Prop where
  legal : s.cfg.Legal
  contexts : s.ctx.length = s.cfg.numCtx
  canonical : s.buf.wf
  inside : ∀ cell ∈ s.buf, cell.1 < s.cfg.bufSize

/-! ## Classes of commands -/

/-- The CTX field of a command, if its format has one (30_encoding.md R81, R86). -/
def contextNumber : Instr → Option Nat
  | .nop => none
  | .crcCfg c _ _ _ _ => some c
  | .crcCfgt c _ _ _ _ => some c
  | .crcVar c _ => some c
  | .crcInit c => some c
  | .crcUpd c => some c
  | .crcFin c => some c
  | .crcCmp c => some c
  | .crcRd c _ => some c
  | .crcRfl _ => none
  | .encI16 _ _ => none
  | .encI32 _ _ => none
  | .encI64 _ _ => none
  | .encF32 _ _ => none
  | .encF64 _ _ => none
  | .decI16 _ _ => none
  | .decI32 _ _ => none
  | .decI64 _ _ => none
  | .decF32 _ _ => none
  | .decF64 _ _ => none

/-- The construction commands (40_crc.md section 2). -/
def constructs : Instr → Bool
  | .crcCfg _ _ _ _ _ => true
  | .crcCfgt _ _ _ _ _ => true
  | .crcVar _ _ => true
  | .nop => false
  | .crcInit _ => false
  | .crcUpd _ => false
  | .crcFin _ => false
  | .crcCmp _ => false
  | .crcRd _ _ => false
  | .crcRfl _ => false
  | .encI16 _ _ => false
  | .encI32 _ _ => false
  | .encI64 _ _ => false
  | .encF32 _ _ => false
  | .encF64 _ _ => false
  | .decI16 _ _ => false
  | .decI32 _ _ => false
  | .decI64 _ _ => false
  | .decF32 _ _ => false
  | .decF64 _ _ => false

/-- The commands that return a value in RESULT (10_state.md R26). -/
def returnsValue : Instr → Bool
  | .crcFin _ => true
  | .crcCmp _ => true
  | .crcRd _ _ => true
  | .crcRfl _ => true
  | .decI16 _ _ => true
  | .decI32 _ _ => true
  | .decI64 _ _ => true
  | .decF32 _ _ => true
  | .decF64 _ _ => true
  | .nop => false
  | .crcCfg _ _ _ _ _ => false
  | .crcCfgt _ _ _ _ _ => false
  | .crcVar _ _ => false
  | .crcInit _ => false
  | .crcUpd _ => false
  | .encI16 _ _ => false
  | .encI32 _ _ => false
  | .encI64 _ _ => false
  | .encF32 _ _ => false
  | .encF64 _ _ => false

/-- A codec command's name in a fault, its bytes and its tier (41_codec.md R140). -/
def codecForm : Instr → Option (CodecOp × Nat × Tier)
  | .encI16 _ t => some (.encI16, 2, t)
  | .encI32 _ t => some (.encI32, 4, t)
  | .encI64 _ t => some (.encI64, 8, t)
  | .encF32 _ t => some (.encF32, 4, t)
  | .encF64 _ t => some (.encF64, 8, t)
  | .decI16 _ t => some (.decI16, 2, t)
  | .decI32 _ t => some (.decI32, 4, t)
  | .decI64 _ t => some (.decI64, 8, t)
  | .decF32 _ t => some (.decF32, 4, t)
  | .decF64 _ t => some (.decF64, 8, t)
  | .nop => none
  | .crcCfg _ _ _ _ _ => none
  | .crcCfgt _ _ _ _ _ => none
  | .crcVar _ _ => none
  | .crcInit _ => none
  | .crcUpd _ => none
  | .crcFin _ => none
  | .crcCmp _ => none
  | .crcRd _ _ => none
  | .crcRfl _ => none

/-- The command keeps the raw tier's precondition: if it is a raw codec command, its bytes are inside BUF
(70_reset_and_hazards.md R226). A run is safe when every command it issues does. -/
def RawSafe (i : Instr) (s : State) : Prop :=
  ∀ op n, codecForm i = some (op, n, .raw) → s.arg1.toNat + n ≤ s.cfg.bufSize

/-! ## Errors -/

/-- The error, if any, of the one range or index check of a command whose context, if it names one, exists and is configured:
a BUF range that does not end inside BUF (20_memory.md R55, R58), or a table index over 255 (40_crc.md R123). -/
def boundsError (i : Instr) (s : State) : Option ErrCode :=
  let outside (off n : Nat) (e : ErrCode) : Option ErrCode := if s.cfg.bufSize < off + n then some e else none
  match i with
  | .nop => none
  | .crcCfg _ _ _ _ _ => none
  | .crcCfgt _ .w16 _ _ _ => outside s.arg3.toNat 512 .construct
  | .crcCfgt _ .w32 _ _ _ => outside s.arg3.toNat 1024 .construct
  | .crcVar _ _ => none
  | .crcInit _ => none
  | .crcUpd _ => outside s.arg0.toNat s.arg1.toNat .bounds
  | .crcFin c =>
    match s.context c with
    | some (.w16 _) => outside s.arg0.toNat 2 .bounds
    | some (.w32 _) => outside s.arg0.toNat 4 .bounds
    | none => none
  | .crcCmp _ => outside s.arg0.toNat s.arg1.toNat .bounds
  | .crcRd _ .table => if 255 < s.arg0.toNat then some .bounds else none
  | .crcRd _ .poly => none
  | .crcRd _ .seed => none
  | .crcRd _ .xorout => none
  | .crcRd _ .flags => none
  | .crcRd _ .reg => none
  | .crcRfl _ => none
  | .encI16 _ _ => outside s.arg1.toNat 2 .bounds
  | .encI32 _ _ => outside s.arg1.toNat 4 .bounds
  | .encI64 _ _ => outside s.arg1.toNat 8 .bounds
  | .encF32 _ _ => outside s.arg1.toNat 4 .bounds
  | .encF64 _ _ => outside s.arg1.toNat 8 .bounds
  | .decI16 _ _ => outside s.arg1.toNat 2 .bounds
  | .decI32 _ _ => outside s.arg1.toNat 4 .bounds
  | .decI64 _ _ => outside s.arg1.toNat 8 .bounds
  | .decF32 _ _ => outside s.arg1.toNat 4 .bounds
  | .decF64 _ _ => outside s.arg1.toNat 8 .bounds

/-- The context a command names does not exist (60_exceptions.md R180, BADCTX). -/
def NamesNoContext (i : Instr) (s : State) : Prop := ∃ c, contextNumber i = some c ∧ s.cfg.numCtx ≤ c

/-- The command uses a context that exists and has VALID = 0 (60_exceptions.md R180, NOCFG). -/
def NamesUnconfigured (i : Instr) (s : State) : Prop :=
  constructs i = false ∧ ∃ c, contextNumber i = some c ∧ c < s.cfg.numCtx ∧ s.context c = none

/-! ## What is unchanged -/

/-- The state no command writes: the configuration, ARG0..ARG3 (10_state.md R25), LASTCMD and the model's own fields. -/
structure Untouched (s t : State) : Prop where
  cfg : t.cfg = s.cfg
  arg0 : t.arg0 = s.arg0
  arg1 : t.arg1 = s.arg1
  arg2 : t.arg2 = s.arg2
  arg3 : t.arg3 = s.arg3
  lastcmd : t.lastcmd = s.lastcmd
  bufDraw : t.bufDraw = s.bufDraw
  pending : t.pending = s.pending
  replies : t.replies = s.replies

/-- STATUS after a command that completed: ERR = 0, STICKY as before (10_state.md R27). -/
structure Succeeded (s t : State) : Prop where
  err : t.status.err = .ok
  sticky : t.status.sticky = s.status.sticky

/-- Every context is as before. -/
def SameContexts (s t : State) : Prop := ∀ d, t.context d = s.context d

/-- Every context but c is as before. -/
def OtherContextsSame (c : Nat) (s t : State) : Prop := ∀ d, d ≠ c → t.context d = s.context d

/-- Every byte of BUF reads as before. -/
def SameBytes (s t : State) : Prop := ∀ a, t.byteAt a = s.byteAt a

/-- Every byte of BUF outside the n bytes at off reads as before. -/
def SameBytesOutside (off n : Nat) (s t : State) : Prop := ∀ a, a < off ∨ off + n ≤ a → t.byteAt a = s.byteAt a

/-- The command ends with the error e: STATUS.ERR = e, STICKY = 1, and no other effect (60_exceptions.md R181). -/
def FailsWith (e : ErrCode) (i : Instr) (s : State) : Prop :=
  exec i s = .next { s with status := { err := e, sticky := true } }

/-- A command on context c that uses a configured context: BADCTX where there is no context c, then NOCFG where it has
VALID = 0 (60_exceptions.md R182, R183). -/
def NeedsContext (c : Nat) (i : Instr) : Prop :=
  ∀ s : State, (s.cfg.numCtx ≤ c → FailsWith .badctx i s) ∧
    (c < s.cfg.numCtx → s.context c = none → FailsWith .nocfg i s)

/-- The host access is accepted, so it is not answered with a bus error (20_memory.md R61, R62), and leaves t. Which other answer
is recorded, in the model's own `replies`, is left open (log entry 1). -/
def AccessLeaves (op : HostOp) (s t : State) : Prop :=
  ∃ r, (∀ a size, r ≠ .busError a size) ∧ access op s = .next (t.answer r)

/-- The bytes of BUF from off on, read one by one. -/
def bytesFrom (s : State) (off n : Nat) : List Byte := (List.range n).map fun k => s.byteAt (off + k)

/-- The number that n bytes of BUF at off make, the byte at the lowest offset least significant (00_scope.md R14). -/
def littleNumber (s : State) (off : Nat) : Nat → Nat
  | 0 => 0
  | n + 1 => littleNumber s off n + (s.byteAt (off + n)).toNat * 256 ^ n

/-- The number that n bytes of BUF at off make, the byte at the lowest offset most significant (00_scope.md R14). -/
def bigNumber (s : State) (off : Nat) : Nat → Nat
  | 0 => 0
  | n + 1 => bigNumber s off n * 256 + (s.byteAt (off + n)).toNat

/-- The number that n bytes at off make in a byte order. -/
def numberAt (e : Endian) (s : State) (off n : Nat) : Nat :=
  match e with
  | .little => littleNumber s off n
  | .big => bigNumber s off n

/-- Byte k of a register: bits 8k+7:8k (00_scope.md R9). -/
def byteOf (v : DWord) (k : Nat) : Byte := v.extractLsb' (8 * k) 8

end Sys2Proof.Machine
end

