-- ==== Sys2Proof/Certificates/Slice0/Obligations.lean ====
section
/-! DEFINITION. The statements about CRCBC, from the numbered rules of spec/. -/
open Sys2Proof Sys2Proof.Machine

/-! ## Encoding (30_encoding.md) -/

/-- R86, R89, R90: decoding the word of a command gives the command back, every field at every value. -/
def Obligations.EncodeThenDecodeReturnsCommand : Prop :=
  ∀ i : Instr, i.wellFormed → decode (encode i) = .command i

/-- R90, R86: a word that decodes to a command is that command's word, so no bit of it is ignored, and the command is
well formed. -/
def Obligations.DecodedWordIsItsEncoding : Prop :=
  ∀ (w : Word) (i : Instr), decode w = .command i → encode i = w ∧ i.wellFormed

/-- R90: at most one row of the opcode map matches any word. -/
def Obligations.OpcodeRowsNeverOverlap : Prop :=
  ∀ (w : Word) (r q : Row), r ∈ opcodeTable → q ∈ opcodeTable →
    w &&& r.format.mask = r.op → w &&& q.format.mask = q.op → r = q

/-- R91: the illegal words are those no row of R89 matches, VID 10..15 and SEL 6..15; executing one ends with ERR = ILLEGAL and
changes nothing else but LASTCMD. -/
def Obligations.IllegalWordsEndWithIllegal : Prop :=
  ∀ (w : Word) (s : State),
    ((∃ why, decode w = .illegal why) ↔
      ((∀ r ∈ opcodeTable, w &&& r.format.mask ≠ r.op) ∨
        (w &&& 0xFFF0F0FF = 0x03 ∧ 10 ≤ (w.extractLsb' 16 4).toNat) ∨
        (w &&& 0xFFF0F0FF = 0x08 ∧ 6 ≤ (w.extractLsb' 16 4).toNat))) ∧
    ((∃ why, decode w = .illegal why) →
      issue w s = .next { s with lastcmd := w, status := { err := .illegal, sticky := true } })

/-- R93: the example encodings: how the command is written, its word, and what the word decodes to. -/
def Obligations.ExampleWordsDecode : Prop :=
  ∀ row ∈ [(Instr.nop, "nop", (0x00000000 : Word)),
           (.crcCfg 0 .w16 true true false, "crc.cfg c0, 16, 1, 1, 0", 0x00006001),
           (.crcCfg 1 .w32 true true false, "crc.cfg c1, 32, 1, 1, 0", 0x00007101),
           (.crcCfgt 2 .w32 false false false, "crc.cfgt c2, 32, 0, 0, 0", 0x00001202),
           (.crcVar 0 .crc32Standard, "crc.var c0, CRC32-STANDARD", 0x00070003),
           (.crcVar 3 .ccittKermitLsb, "crc.var c3, CCITT-KERMIT-LSB", 0x00050303),
           (.crcInit 0, "crc.init c0", 0x00000004),
           (.crcUpd 0, "crc.upd c0", 0x00000005),
           (.crcFin 0, "crc.fin c0", 0x00000006),
           (.crcCmp 1, "crc.cmp c1", 0x00000107),
           (.crcRd 0 .table, "crc.rd c0, table", 0x00050008),
           (.crcRfl .w32, "crc.rfl 32", 0x00001009),
           (.encI16 .little .safe, "enc.i16.le", 0x00000010),
           (.encI64 .big .raw, "enc.i64.be.raw", 0x00003012),
           (.decF32 .little .raw, "dec.f32.le.raw", 0x0000201B),
           (.decI16 .big .safe, "dec.i16.be", 0x00001018)],
    asmText row.1 = row.2.1 ∧ encode row.1 = row.2.2 ∧ decode row.2.2 = .command row.1

/-! ## Steps and the whole machine -/

/-- R31: a step whose pending access is a write of w to CMD sets LASTCMD to w and executes the command w decodes to (or ends
with ILLEGAL), then answers the access; a read of CMD returns LASTCMD; LASTCMD is 0 at reset. That the next access stands at the
head of `pending` and that the answer is recorded in `replies` is the model's form of the host (log entry 1). -/
def Obligations.StepRunsTheWordWrittenToCmd : Prop :=
  (∀ (s : State) (w : Word) (ops : List HostOp) (i : Instr),
    s.pending = .wr32 0x0014 w :: ops → decode w = .command i →
      step s = mapNext (fun t => { t with replies := .done :: t.replies })
        (exec i { s with pending := ops, lastcmd := w })) ∧
  (∀ (s : State) (w : Word) (ops : List HostOp) (why : IllegalWord),
    s.pending = .wr32 0x0014 w :: ops → decode w = .illegal why →
      step s = .next { s with pending := ops, lastcmd := w, status := { err := .illegal, sticky := true },
                              replies := .done :: s.replies }) ∧
  (∀ s : State, hostRead s .b32 0x0014 = .data32 s.lastcmd) ∧
  State.reset.lastcmd = 0

/-- R65: a step takes the next pending access and performs it, so what the statements below say of `access` and `hostRead` they say
of that step; it gives at most one answer, earlier answers and later accesses are untouched, and the configuration never changes.
The list `pending` and the answers in `replies` are the model's form of the host (log entry 1); that a step with nothing pending
leaves the state is its choice (log entry 2). -/
def Obligations.StepAcceptsOneAccess : Prop :=
  (∀ (s : State) (op : HostOp) (ops : List HostOp), s.pending = op :: ops →
    step s = access op { s with pending := ops }) ∧
  (∀ s : State, s.pending = [] → step s = .next s) ∧
  (∀ s t : State, step s = .next t →
    t.cfg = s.cfg ∧ t.pending = s.pending.tail ∧ ∃ new, t.replies = new ++ s.replies ∧ new.length ≤ 1)

/-- The invariant is kept by every step: NUM_CTX contexts, BUF's canonical form inside BUF, a legal configuration (R7, R20,
R30). -/
def Obligations.EveryStepKeepsWf : Prop :=
  ∀ s t : State, s.Wf → step s = .next t → t.Wf

/-- The state after reset meets the invariant. The reference configuration is the model's choice (log entry 5). -/
def Obligations.ResetIsWf : Prop := State.reset.Wf

/-- R33: no command reads STATUS: from any other STATUS the same command has the same effect, and ends with the same ERR. -/
def Obligations.StatusNeverChangesACommand : Prop :=
  ∀ (i : Instr) (s : State) (st : Status),
    exec i { s with status := st } =
      mapNext (fun t => { t with status := { err := t.status.err, sticky := st.sticky || decide (t.status.err ≠ .ok) } })
        (exec i s)

/-- R125: a command neither reads nor writes any context but the one it names. -/
def Obligations.ContextsAreIndependent : Prop :=
  ∀ (i : Instr) (s : State) (d : Nat) (x : Option Crc), contextNumber i ≠ some d →
    exec i { s with ctx := s.ctx.set d x } = mapNext (fun t => { t with ctx := t.ctx.set d x }) (exec i s)

/-- R146: NATIVE_ENDIAN has no effect on what any command does, in either tier, nor on what any host read but that of CAPS
returns. -/
def Obligations.NativeEndianIsNotObservable : Prop :=
  ∀ (s : State) (e : Endian),
    (∀ i : Instr, exec i { s with cfg := { s.cfg with nativeEndian := e } } =
      mapNext (fun t => { t with cfg := { t.cfg with nativeEndian := e } }) (exec i s)) ∧
    (∀ (size : AccessSize) (a : Offset), a ≠ 0x0004 →
      hostRead { s with cfg := { s.cfg with nativeEndian := e } } size a = hostRead s size a)

/-- R181, R231: every command ends in a next state, and that holds of the raw tier too where its bytes are inside BUF (R226). -/
def Obligations.EveryCommandCompletes : Prop :=
  ∀ (i : Instr) (s : State), RawSafe i s → ∃ t, exec i s = .next t

/-- R188, R145: the one fault is a raw codec command whose bytes are not all inside BUF, it names the command and the offset,
and nothing is ever refused. -/
def Obligations.TheOnlyFaultIsRawOutOfBounds : Prop :=
  (∀ (i : Instr) (s : State) (r : Fault), exec i s = .fault r ↔
    ∃ op n, codecForm i = some (op, n, .raw) ∧ s.cfg.bufSize < s.arg1.toNat + n ∧
      r = .undefinedBehaviour (.rawOutOfBounds op s.arg1.toNat)) ∧
  (∀ (s : State) (r : Refusal), step s ≠ .refused r)

/-! ## Errors and STATUS -/

/-- R181: a command that ends with an error changes STATUS (ERR, and STICKY to 1) and LASTCMD and nothing else. -/
def Obligations.ErrorsArePrecise : Prop :=
  ∀ (w : Word) (s t : State), issue w s = .next t → t.status.err ≠ .ok →
    t = { s with lastcmd := w, status := { err := t.status.err, sticky := true } }

/-- R182: ILLEGAL at decode and BADCTX first, whatever the state; a command without a CTX field has CTX bits 0 and never
raises BADCTX or NOCFG. -/
def Obligations.IllegalAndBadctxComeFirst : Prop :=
  (∀ (w : Word) (why : IllegalWord) (s : State), decode w = .illegal why →
    issue w s = .next { s with lastcmd := w, status := { err := .illegal, sticky := true } }) ∧
  (∀ (i : Instr) (c : Nat) (s : State), contextNumber i = some c → s.cfg.numCtx ≤ c → FailsWith .badctx i s) ∧
  (∀ (i : Instr) (s t : State), contextNumber i = none → exec i s = .next t →
    t.status.err ≠ .badctx ∧ t.status.err ≠ .nocfg) ∧
  (∀ (w : Word) (i : Instr), decode w = .command i → contextNumber i = none → w.extractLsb' 8 4 = 0)

/-- R183: a command other than a construction command that names a context with VALID = 0 ends with NOCFG, whatever its
operands (so before any bounds error, R184). -/
def Obligations.UnconfiguredContextRaisesNocfg : Prop :=
  ∀ (i : Instr) (c : Nat) (s : State), contextNumber i = some c → constructs i = false → c < s.cfg.numCtx →
    s.context c = none → FailsWith .nocfg i s

/-- R184, R180: the code a word ends with is the first that applies, in the order ILLEGAL, BADCTX, NOCFG, the command's bounds
error (BOUNDS or CONSTRUCT), and OK when none does; an illegal word never faults. -/
def Obligations.ErrorsFollowThePriorityOrder : Prop :=
  ∀ (w : Word) (s : State),
    (∀ why, decode w = .illegal why → ∃ t, issue w s = .next t ∧ t.status.err = .illegal) ∧
    (∀ (i : Instr) (t : State), decode w = .command i → issue w s = .next t →
      (NamesNoContext i s → t.status.err = .badctx) ∧
      (¬ NamesNoContext i s → NamesUnconfigured i s → t.status.err = .nocfg) ∧
      (¬ NamesNoContext i s → ¬ NamesUnconfigured i s → t.status.err = (boundsError i s).getD .ok))

/-- R27: ERR is bits 3:0, STICKY bit 8, every other bit reads 0; every command writes ERR, whatever it held, and leaves
STICKY = STICKY | (ERR ≠ 0); a host write clears STICKY if bit 8 is 1 and changes nothing else; nothing but that write and a
reset clears STICKY; both are 0 at reset. The numbers of the codes are those of R180. -/
def Obligations.StatusRegister : Prop :=
  (ErrCode.ok.code = 0 ∧ ErrCode.illegal.code = 1 ∧ ErrCode.badctx.code = 2 ∧ ErrCode.nocfg.code = 3 ∧
    ErrCode.bounds.code = 4 ∧ ErrCode.construct.code = 5) ∧
  (∀ (st : Status) (j : Nat),
    st.toWord.getLsbD j = (if j < 4 then st.err.code.getLsbD j else decide (j = 8) && st.sticky)) ∧
  (∀ (w : Word) (s : State) (e : ErrCode), issue w { s with status := { err := e, sticky := s.status.sticky } } = issue w s) ∧
  (∀ (w : Word) (s t : State), issue w s = .next t →
    t.status.sticky = (s.status.sticky || decide (t.status.err ≠ .ok))) ∧
  (∀ (s : State) (v : Word), AccessLeaves (.wr32 0x0010 v) s
    { s with status := { err := s.status.err, sticky := s.status.sticky && !v.getLsbD 8 } }) ∧
  (∀ (op : HostOp) (s t : State), access op s = .next t → s.status.sticky = true →
    t.status.sticky = true ∨ op = .hwReset ∨ (∃ v : Word, op = .wr32 0x0010 v ∧ v.getLsbD 8 = true) ∨
      ∃ v : Word, op = .wr32 0x000C v ∧ v.getLsbD 0 = true) ∧
  (∀ s : State, hostRead s .b32 0x0010 = .data32 s.status.toWord) ∧
  State.reset.status = { err := .ok, sticky := false }

/-! ## Interface registers -/

/-- R25: each half of an ARG register is written alone and keeps the other half, both halves read back, no command writes an
ARG register, and they are 0 at reset. -/
def Obligations.ArgRegisters : Prop :=
  (∀ (s : State) (v : Word),
    AccessLeaves (.wr32 0x0020 v) s { s with arg0 := s.arg0.extractLsb' 32 32 ++ v } ∧
    AccessLeaves (.wr32 0x0024 v) s { s with arg0 := v ++ s.arg0.extractLsb' 0 32 } ∧
    AccessLeaves (.wr32 0x0028 v) s { s with arg1 := s.arg1.extractLsb' 32 32 ++ v } ∧
    AccessLeaves (.wr32 0x002C v) s { s with arg1 := v ++ s.arg1.extractLsb' 0 32 } ∧
    AccessLeaves (.wr32 0x0030 v) s { s with arg2 := s.arg2.extractLsb' 32 32 ++ v } ∧
    AccessLeaves (.wr32 0x0034 v) s { s with arg2 := v ++ s.arg2.extractLsb' 0 32 } ∧
    AccessLeaves (.wr32 0x0038 v) s { s with arg3 := s.arg3.extractLsb' 32 32 ++ v } ∧
    AccessLeaves (.wr32 0x003C v) s { s with arg3 := v ++ s.arg3.extractLsb' 0 32 }) ∧
  (∀ s : State,
    hostRead s .b32 0x0020 = .data32 (s.arg0.extractLsb' 0 32) ∧ hostRead s .b32 0x0024 = .data32 (s.arg0.extractLsb' 32 32) ∧
    hostRead s .b32 0x0028 = .data32 (s.arg1.extractLsb' 0 32) ∧ hostRead s .b32 0x002C = .data32 (s.arg1.extractLsb' 32 32) ∧
    hostRead s .b32 0x0030 = .data32 (s.arg2.extractLsb' 0 32) ∧ hostRead s .b32 0x0034 = .data32 (s.arg2.extractLsb' 32 32) ∧
    hostRead s .b32 0x0038 = .data32 (s.arg3.extractLsb' 0 32) ∧
    hostRead s .b32 0x003C = .data32 (s.arg3.extractLsb' 32 32)) ∧
  (∀ (i : Instr) (s t : State), exec i s = .next t → Untouched s t) ∧
  (State.reset.arg0 = 0 ∧ State.reset.arg1 = 0 ∧ State.reset.arg2 = 0 ∧ State.reset.arg3 = 0)

/-- R26: RESULT is written only by a value-returning command that completes with ERR = 0; host writes to it are ignored; its
halves read at 0x0040 and 0x0044; it is 0 at reset. -/
def Obligations.ResultRegister : Prop :=
  (∀ (i : Instr) (s t : State), exec i s = .next t → returnsValue i = false ∨ t.status.err ≠ .ok →
    t.result = s.result) ∧
  (∀ (s : State) (v : Word),
    AccessLeaves (.wr32 0x0040 v) s s ∧
    AccessLeaves (.wr32 0x0044 v) s s) ∧
  (∀ s : State, hostRead s .b32 0x0040 = .data32 (s.result.extractLsb' 0 32) ∧
    hostRead s .b32 0x0044 = .data32 (s.result.extractLsb' 32 32)) ∧
  State.reset.result = 0

/-- R23, R24: ID reads 0x43524307; CAPS reads NUM_CTX in bits 4:0 and NATIVE_ENDIAN in bit 8; BUFSZ reads BUF_SIZE; writes to
them are ignored. -/
def Obligations.DiscoveryRegisters : Prop :=
  ∀ s : State, s.cfg.Legal →
    hostRead s .b32 0x0000 = .data32 0x43524307 ∧
    (∃ caps : Word, hostRead s .b32 0x0004 = .data32 caps ∧ (caps.extractLsb' 0 5).toNat = s.cfg.numCtx ∧
      caps.getLsbD 8 = decide (s.cfg.nativeEndian = .big) ∧
      ∀ j, 5 ≤ j → j ≠ 8 → caps.getLsbD j = false) ∧
    (∃ size : Word, hostRead s .b32 0x0008 = .data32 size ∧ size.toNat = s.cfg.bufSize) ∧
    (∀ v : Word,
      AccessLeaves (.wr32 0x0000 v) s s ∧
      AccessLeaves (.wr32 0x0004 v) s s ∧
      AccessLeaves (.wr32 0x0008 v) s s)

/-! ## Host accesses -/

/-- R63: no host read changes anything, and its answer is what `hostRead` gives. That the answer is recorded in `replies` is the
model's form of the host (log entry 1). -/
def Obligations.HostReadsHaveNoSideEffect : Prop :=
  ∀ (size : AccessSize) (a : Offset) (s : State),
    access (.rd size a) s = .next { s with replies := hostRead s size a :: s.replies }

/-- R62: an access of a width or alignment that the region does not accept is answered with a bus error and changes no CRCBC
state. That the model then goes on with the next access is its own choice (log entry 3). -/
def Obligations.UnacceptedAccessesAreBusErrors : Prop :=
  ∀ (s : State) (a : Offset),
    (∀ size, (if a.toNat < 0x1000 then size ≠ .b32 ∨ a.toNat % 4 ≠ 0 else size ≠ .b8) →
      access (.rd size a) s = .next { s with replies := .busError a size :: s.replies }) ∧
    (∀ v, access (.wr16 a v) s = .next { s with replies := .busError a .b16 :: s.replies }) ∧
    (∀ v, access (.wr64 a v) s = .next { s with replies := .busError a .b64 :: s.replies }) ∧
    (∀ v, a.toNat < 0x1000 → access (.wr8 a v) s = .next { s with replies := .busError a .b8 :: s.replies }) ∧
    (∀ v, 0x1000 ≤ a.toNat ∨ a.toNat % 4 ≠ 0 →
      access (.wr32 a v) s = .next { s with replies := .busError a .b32 :: s.replies })

/-- R61: rd8 at 0x1000+k returns BUF[k]; wr8 sets BUF[k] and no other byte and no other state, for k < BUF_SIZE; beyond BUF reads give 0
and writes are ignored. -/
def Obligations.HostReachesBufBytes : Prop :=
  ∀ (s : State) (a : Offset) (v : Byte), 0x1000 ≤ a.toNat →
    (a.toNat - 0x1000 < s.cfg.bufSize →
      hostRead s .b8 a = .data8 (s.byteAt (a.toNat - 0x1000)) ∧
      ∃ t, AccessLeaves (.wr8 a v) s t ∧ t = { s with buf := t.buf } ∧
        t.byteAt (a.toNat - 0x1000) = v ∧ SameBytesOutside (a.toNat - 0x1000) 1 s t) ∧
    (s.cfg.bufSize ≤ a.toNat - 0x1000 →
      hostRead s .b8 a = .data8 0 ∧ AccessLeaves (.wr8 a v) s s)

/-- R38: reserved offsets of the register region read 0 and ignore writes. -/
def Obligations.ReservedOffsetsReadZero : Prop :=
  ∀ (s : State) (a : Offset) (v : Word), a.toNat < 0x1000 → a.toNat % 4 = 0 →
    a.toNat = 0x18 ∨ a.toNat = 0x1C ∨ 0x48 ≤ a.toNat →
    hostRead s .b32 a = .data32 0 ∧ AccessLeaves (.wr32 a v) s s

/-- R60: a host address in the window is the access at its distance from BASE. That a read or a write at any other address is no
access to CRCBC is DEDUCED (log entry 12). -/
def Obligations.HostAddressesMapThroughBase : Prop :=
  ∀ (c : Config) (addr : Nat) (size : AccessSize) (v : Word) (b : Byte),
    (∀ a : Offset, addr = c.base + a.toNat →
      memRead c addr size = some (.rd size a) ∧ memWrite32 c addr v = some (.wr32 a v) ∧
      memWrite8 c addr b = some (.wr8 a b)) ∧
    (addr < c.base ∨ c.base + 0x10000 ≤ addr → memRead c addr size = none ∧ memWrite32 c addr v = none ∧ memWrite8 c addr b = none)

/-! ## Reset -/

/-- R212, R32: a write to CTRL with bit 0 = 1 gives every item of state its reset value except BUF, which keeps every byte; with
bit 0 = 0 it has no effect; CTRL reads 0. -/
def Obligations.SoftResetKeepsBuf : Prop :=
  ∀ (s : State) (v : Word),
    hostRead s .b32 0x000C = .data32 0 ∧
    (v.getLsbD 0 = false → AccessLeaves (.wr32 0x000C v) s s) ∧
    (v.getLsbD 0 = true → ∃ t, AccessLeaves (.wr32 0x000C v) s t ∧
      t.arg0 = 0 ∧ t.arg1 = 0 ∧ t.arg2 = 0 ∧ t.arg3 = 0 ∧ t.result = 0 ∧
      t.status = { err := .ok, sticky := false } ∧ t.lastcmd = 0 ∧ (∀ c, t.context c = none) ∧
      t.ctx.length = s.cfg.numCtx ∧ t.cfg = s.cfg ∧ SameBytes s t ∧ t.pending = s.pending)

/-- R210: the hardware reset gives every item of state its reset value and makes every context unconfigured; of BUF nothing is said,
as the spec says nothing. That the reset is one pending event is the model's form (log entry 10). -/
def Obligations.HardwareResetValues : Prop :=
  ∀ s : State, ∃ t, access .hwReset s = .next t ∧
    t.arg0 = 0 ∧ t.arg1 = 0 ∧ t.arg2 = 0 ∧ t.arg3 = 0 ∧ t.result = 0 ∧
    t.status = { err := .ok, sticky := false } ∧ t.lastcmd = 0 ∧ (∀ c, t.context c = none) ∧
    t.ctx.length = s.cfg.numCtx ∧ t.cfg = s.cfg

/-! ## System commands -/

/-- R170, R92: NOP sets ERR to 0 and changes nothing else (STICKY stays), and 0x00000000 is its only word: every other word
with OP = 0x00 is illegal. -/
def Obligations.NopEffect : Prop :=
  (∀ s : State, exec .nop s = .next { s with status := { err := .ok, sticky := s.status.sticky } }) ∧
  (∀ w : Word, decode w = .command .nop ↔ w = 0) ∧
  (∀ w : Word, w.extractLsb' 0 8 = 0 → w ≠ 0 → ∃ why, decode w = .illegal why)

/-- R96, R25: the accesses of `arg<i> v` set both halves of ARGi to v, and nothing else but the answers given. That they are
accepted one a step is the model's form of the host (log entry 1). -/
def Obligations.ArgPseudoSetsTheWholeRegister : Prop :=
  ∀ (s : State) (v : DWord) (ops : List HostOp),
    (s.pending = argOps 0 v ++ ops →
      core.run 2 s = .next { s with pending := ops, arg0 := v, replies := [.done, .done] ++ s.replies }) ∧
    (s.pending = argOps 1 v ++ ops →
      core.run 2 s = .next { s with pending := ops, arg1 := v, replies := [.done, .done] ++ s.replies }) ∧
    (s.pending = argOps 2 v ++ ops →
      core.run 2 s = .next { s with pending := ops, arg2 := v, replies := [.done, .done] ++ s.replies }) ∧
    (s.pending = argOps 3 v ++ ops →
      core.run 2 s = .next { s with pending := ops, arg3 := v, replies := [.done, .done] ++ s.replies })

/-! ## CRC engine -/

/-- R13: bit i of the reflection is bit W-1-i, byte k of the byte swap is byte W/8-1-k; both are involutions (R101, R112). -/
def Obligations.ReflectionAndByteSwap : Prop :=
  (∀ (w : Nat) (v : BitVec w) (i : Nat), i < w → (reflect v).getLsbD i = v.getLsbD (w - 1 - i)) ∧
  (∀ (w : Nat) (v : BitVec w) (k : Nat), w % 8 = 0 → k < w / 8 →
    (bswap v).extractLsb' (8 * k) 8 = v.extractLsb' (8 * (w / 8 - 1 - k)) 8) ∧
  (∀ (w : Nat) (v : BitVec w), reflect (reflect v) = v ∧ (w % 8 = 0 → bswap (bswap v) = v))

/-- R107: the sample table entries, and T[0] = 0 in every generated table. -/
def Obligations.SampleTableEntries : Prop :=
  (∀ row ∈ [((0x8005 : BitVec 16), true, [(0xC0C1 : BitVec 16), 0xC181, 0x0140, 0xA001, 0x4040]),
            (0x1021, false, [0x1021, 0x2042, 0x3063, 0x9188, 0x1EF0]),
            (0x1021, true, [0x1189, 0x2312, 0x329B, 0x8408, 0x0F78])],
    [1, 2, 3, 128, 255].map (tableAt (genTable row.1 row.2.1)) = row.2.2) ∧
  (∀ row ∈ [((0x04C11DB7 : BitVec 32), true, [(0x77073096 : BitVec 32), 0xEE0E612C, 0x990951BA, 0xEDB88320, 0x2D02EF8D]),
            (0x814141AB, false, [0x814141AB, 0x83C3C2FD, 0x02828356, 0x40005999, 0x80006EEE]),
            (0x04C11DB7, false, [0x04C11DB7, 0x09823B6E, 0x0D4326D9, 0x690CE0EE, 0xB1F740B4])],
    [1, 2, 3, 128, 255].map (tableAt (genTable row.1 row.2.1)) = row.2.2) ∧
  (∀ ri : Bool, (∀ poly : BitVec 16, tableAt (genTable poly ri) 0 = 0) ∧ ∀ poly : BitVec 32, tableAt (genTable poly ri) 0 = 0)

/-- R109, R110: one byte into the register, in both directions, at both widths. -/
def Obligations.ByteUpdate : Prop :=
  (∀ (c : CrcOf 16) (reg : BitVec 16) (b : Byte),
    (c.params.ri = true →
      c.stepByte reg b = (reg >>> 8) ^^^ c.table[(b ^^^ reg.extractLsb' 0 8).toNat]'(BitVec.isLt _)) ∧
    (c.params.ri = false →
      c.stepByte reg b = (reg <<< 8) ^^^ c.table[(b ^^^ reg.extractLsb' 8 8).toNat]'(BitVec.isLt _))) ∧
  (∀ (c : CrcOf 32) (reg : BitVec 32) (b : Byte),
    (c.params.ri = true →
      c.stepByte reg b = (reg >>> 8) ^^^ c.table[(b ^^^ reg.extractLsb' 0 8).toNat]'(BitVec.isLt _)) ∧
    (c.params.ri = false →
      c.stepByte reg b = (reg <<< 8) ^^^ c.table[(b ^^^ reg.extractLsb' 24 8).toNat]'(BitVec.isLt _)))

/-- R102, R103, R109, R110: with the generated table, one table-driven update is eight iterations of the bit-serial division of
the register with the byte entered at its low end (reflected) or its high end. -/
def Obligations.TableUpdateIsBitSerial : Prop :=
  (∀ (poly reg : BitVec 16) (b : Byte),
    stepRight (genTable poly true) reg b = (shiftRightBit (reflect poly))^[8] (reg ^^^ b.setWidth 16) ∧
    stepLeft (genTable poly false) reg b = (shiftLeftBit poly)^[8] (reg ^^^ (b.setWidth 16 <<< 8))) ∧
  (∀ (poly reg : BitVec 32) (b : Byte),
    stepRight (genTable poly true) reg b = (shiftRightBit (reflect poly))^[8] (reg ^^^ b.setWidth 32) ∧
    stepLeft (genTable poly false) reg b = (shiftLeftBit poly)^[8] (reg ^^^ (b.setWidth 32 <<< 24)))

/-- The order of the steps of F and the meaning of its byte swap are the spec's own reading (log entry 18; 90_conflicts.md C2, C3).
R112: F reflects if RI ≠ RO, then XORs the mask, then swaps the bytes if BS = 1, and is a bijection with inverse F_inv. -/
def Obligations.FinalizationAndItsInverse : Prop :=
  (∀ (p : CrcParams 16) (v : BitVec 16),
    p.finalize v = (fun x => if p.bs then x.extractLsb' 0 8 ++ x.extractLsb' 8 8 else x)
      ((if p.ri ≠ p.ro then reflect v else v) ^^^ p.xorout) ∧
    p.unfinalize (p.finalize v) = v ∧ p.finalize (p.unfinalize v) = v) ∧
  (∀ (p : CrcParams 32) (v : BitVec 32),
    p.finalize v =
      (fun x => if p.bs then x.extractLsb' 0 8 ++ x.extractLsb' 8 8 ++ x.extractLsb' 16 8 ++ x.extractLsb' 24 8 else x)
      ((if p.ri ≠ p.ro then reflect v else v) ^^^ p.xorout) ∧
    p.unfinalize (p.finalize v) = v ∧ p.finalize (p.unfinalize v) = v)

/-- The CCITT-KERMIT-LSB row rests on the spec's own reading of the byte swap (log entry 18; 90_conflicts.md C3). R105: the check
values of the ten named variants: REG after "123456789", and CRC.CMP's value of "123456789" and of
"1234567890" from the variant's seed. -/
def Obligations.NamedVariantCheckValues : Prop :=
  let nine : List Byte := [0x31, 0x32, 0x33, 0x34, 0x35, 0x36, 0x37, 0x38, 0x39]
  ∀ row ∈ [(Variant.ibm, (0xBB3D : DWord), (0xBB3D : DWord), (0xC57A : DWord)),
           (.ccittFalse, 0x29B1, 0x29B1, 0x3218), (.ccittXmodem, 0x31C3, 0x31C3, 0xD321),
           (.ccittAug, 0xE5CC, 0xE5CC, 0x57D8), (.ccittKermit, 0x2189, 0x2189, 0x286B),
           (.ccittKermitLsb, 0x2189, 0x8921, 0x6B28), (.ccittMcrf4xx, 0x6F91, 0x6F91, 0xB4EC),
           (.crc32Standard, 0x340BC6D9, 0xCBF43926, 0x261DAEE5), (.crc32q, 0x3010BF7F, 0x3010BF7F, 0x10BF7F00),
           (.crc32Posix, 0x89A1897F, 0x765E7680, 0xC181FD8E)],
    let k := (variantRow row.1).construct
    (k.update nine).read .reg 0 = some row.2.1 ∧
    (k.update nine).digestValue = row.2.2.1 ∧
    (k.update (nine ++ [0x30])).digestValue = row.2.2.2 ∧
    (k.read .seed 0).map (fun seed => (k.compute seed nine, k.compute seed (nine ++ [0x30]))) =
      some (row.2.2.1, row.2.2.2)

/-- R115: CRC.CFG replaces the context by one with the truncated ARG0, ARG1, ARG2, the flags of the word, the generated table and
REG = seed, at either width; nothing else changes but STATUS; BADCTX where there is no context c. -/
def Obligations.CfgConstructsFromParameters : Prop :=
  ∀ (c : Nat) (width : CrcWidth) (ri ro bs : Bool) (s : State),
    (s.cfg.numCtx ≤ c → FailsWith .badctx (.crcCfg c width ri ro bs) s) ∧ (s.Wf → c < s.cfg.numCtx →
    ∃ t, exec (.crcCfg c width ri ro bs) s = .next t ∧
      Succeeded s t ∧ Untouched s t ∧ t.result = s.result ∧ SameBytes s t ∧ OtherContextsSame c s t ∧
      t.context c = some (match width with
        | .w16 => .w16 { params := { poly := s.arg0.setWidth 16, seed := s.arg1.setWidth 16, xorout := s.arg2.setWidth 16,
                                     ri := ri, ro := ro, bs := bs }
                         table := genTable (s.arg0.setWidth 16) ri
                         reg := s.arg1.setWidth 16 }
        | .w32 => .w32 { params := { poly := s.arg0.setWidth 32, seed := s.arg1.setWidth 32, xorout := s.arg2.setWidth 32,
                                     ri := ri, ro := ro, bs := bs }
                         table := genTable (s.arg0.setWidth 32) ri
                         reg := s.arg1.setWidth 32 }))

/-- R116: CRC.CFGT copies the 256 little-endian entries of the image at ARG3 as they are, with the parameters of CRC.CFG;
BADCTX where there is no context c, else CONSTRUCT where the image is not wholly inside BUF. -/
def Obligations.CfgtCopiesTheTableImage : Prop :=
  ∀ (c : Nat) (ri ro bs : Bool) (s : State),
    (∀ width, s.cfg.numCtx ≤ c → FailsWith .badctx (.crcCfgt c width ri ro bs) s) ∧
    (c < s.cfg.numCtx → s.cfg.bufSize < s.arg3.toNat + 512 → FailsWith .construct (.crcCfgt c .w16 ri ro bs) s) ∧
    (c < s.cfg.numCtx → s.cfg.bufSize < s.arg3.toNat + 1024 → FailsWith .construct (.crcCfgt c .w32 ri ro bs) s) ∧
    (s.Wf → c < s.cfg.numCtx → s.arg3.toNat + 512 ≤ s.cfg.bufSize →
      ∃ t k, exec (.crcCfgt c .w16 ri ro bs) s = .next t ∧
        Succeeded s t ∧ Untouched s t ∧ t.result = s.result ∧ SameBytes s t ∧ OtherContextsSame c s t ∧
        t.context c = some (.w16 k) ∧
        k.params = { poly := s.arg0.setWidth 16, seed := s.arg1.setWidth 16, xorout := s.arg2.setWidth 16,
                     ri := ri, ro := ro, bs := bs } ∧
        k.reg = s.arg1.setWidth 16 ∧
        ∀ j : Fin 256, k.table[j] = s.byteAt (s.arg3.toNat + 2 * j + 1) ++ s.byteAt (s.arg3.toNat + 2 * j)) ∧
    (s.Wf → c < s.cfg.numCtx → s.arg3.toNat + 1024 ≤ s.cfg.bufSize →
      ∃ t k, exec (.crcCfgt c .w32 ri ro bs) s = .next t ∧
        Succeeded s t ∧ Untouched s t ∧ t.result = s.result ∧ SameBytes s t ∧ OtherContextsSame c s t ∧
        t.context c = some (.w32 k) ∧
        k.params = { poly := s.arg0.setWidth 32, seed := s.arg1.setWidth 32, xorout := s.arg2.setWidth 32,
                     ri := ri, ro := ro, bs := bs } ∧
        k.reg = s.arg1.setWidth 32 ∧
        ∀ j : Fin 256, k.table[j] =
          s.byteAt (s.arg3.toNat + 4 * j + 3) ++ s.byteAt (s.arg3.toNat + 4 * j + 2) ++
            s.byteAt (s.arg3.toNat + 4 * j + 1) ++ s.byteAt (s.arg3.toNat + 4 * j))

/-- R104, R117: CRC.VAR constructs the row's parameters with the generated table and REG = seed; BADCTX where there is no
context c. -/
def Obligations.VarConstructsTheNamedVariant : Prop :=
  (∀ (c : Nat) (v : Variant) (s : State), s.cfg.numCtx ≤ c → FailsWith .badctx (.crcVar c v) s) ∧
  (∀ row ∈ [(Variant.ibm, ({ poly := 0x8005, seed := 0x0000, xorout := 0x0000, ri := true, ro := true, bs := false } : CrcParams 16)),
            (.ccittFalse, { poly := 0x1021, seed := 0xFFFF, xorout := 0x0000, ri := false, ro := false, bs := false }),
            (.ccittXmodem, { poly := 0x1021, seed := 0x0000, xorout := 0x0000, ri := false, ro := false, bs := false }),
            (.ccittAug, { poly := 0x1021, seed := 0x1D0F, xorout := 0x0000, ri := false, ro := false, bs := false }),
            (.ccittKermit, { poly := 0x1021, seed := 0x0000, xorout := 0x0000, ri := true, ro := true, bs := false }),
            (.ccittKermitLsb, { poly := 0x1021, seed := 0x0000, xorout := 0x0000, ri := true, ro := true, bs := true }),
            (.ccittMcrf4xx, { poly := 0x1021, seed := 0xFFFF, xorout := 0x0000, ri := true, ro := true, bs := false })],
    ∀ (c : Nat) (s : State), s.Wf → c < s.cfg.numCtx →
      ∃ t, exec (.crcVar c row.1) s = .next t ∧
        Succeeded s t ∧ Untouched s t ∧ t.result = s.result ∧ SameBytes s t ∧ OtherContextsSame c s t ∧
        t.context c = some (.w16 { params := row.2, table := genTable row.2.poly row.2.ri, reg := row.2.seed })) ∧
  (∀ row ∈ [(Variant.crc32Standard, ({ poly := 0x04C11DB7, seed := 0xFFFFFFFF, xorout := 0xFFFFFFFF, ri := true, ro := true, bs := false } : CrcParams 32)),
            (.crc32q, { poly := 0x814141AB, seed := 0x00000000, xorout := 0x00000000, ri := false, ro := false, bs := false }),
            (.crc32Posix, { poly := 0x04C11DB7, seed := 0x00000000, xorout := 0xFFFFFFFF, ri := false, ro := false, bs := false })],
    ∀ (c : Nat) (s : State), s.Wf → c < s.cfg.numCtx →
      ∃ t, exec (.crcVar c row.1) s = .next t ∧
        Succeeded s t ∧ Untouched s t ∧ t.result = s.result ∧ SameBytes s t ∧ OtherContextsSame c s t ∧
        t.context c = some (.w32 { params := row.2, table := genTable row.2.poly row.2.ri, reg := row.2.seed }))

/-- R29: a command that is not a construction command changes no context's width, parameters or table, and configures or
removes none; REG changes only in CRC.INIT and CRC.UPD of that context. -/
def Obligations.ParametersAndTableAreImmutable : Prop :=
  ∀ (i : Instr) (s t : State), exec i s = .next t → constructs i = false → ∀ d,
    match s.context d, t.context d with
    | none, none => True
    | some (.w16 k), some (.w16 k') =>
      k'.params = k.params ∧ k'.table = k.table ∧ (i ≠ .crcInit d → i ≠ .crcUpd d → k'.reg = k.reg)
    | some (.w32 k), some (.w32 k') =>
      k'.params = k.params ∧ k'.table = k.table ∧ (i ≠ .crcInit d → i ≠ .crcUpd d → k'.reg = k.reg)
    | _, _ => False

/-- R118: CRC.INIT sets REG to the seed and changes nothing else but STATUS; BADCTX, then NOCFG. -/
def Obligations.InitSetsRegToSeed : Prop :=
  ∀ c : Nat, NeedsContext c (.crcInit c) ∧ ∀ (k : Crc) (s : State), c < s.cfg.numCtx → s.context c = some k →
    ∃ t, exec (.crcInit c) s = .next t ∧
      Succeeded s t ∧ Untouched s t ∧ t.result = s.result ∧ SameBytes s t ∧ OtherContextsSame c s t ∧
      t.context c = some (match k with
        | .w16 x => .w16 { x with reg := x.params.seed }
        | .w32 x => .w32 { x with reg := x.params.seed })

/-- R119: CRC.UPD folds the ARG1 bytes at ARG0, in order of offset, into REG and changes nothing else but STATUS; a count
of 0 at ARG0 = BUF_SIZE is in bounds (R56); BADCTX, then NOCFG, then BOUNDS. -/
def Obligations.UpdFoldsBytesIntoReg : Prop :=
  ∀ c : Nat, NeedsContext c (.crcUpd c) ∧ ∀ (k : Crc) (s : State), c < s.cfg.numCtx → s.context c = some k →
    (s.cfg.bufSize < s.arg0.toNat + s.arg1.toNat → FailsWith .bounds (.crcUpd c) s) ∧
    (s.arg0.toNat + s.arg1.toNat ≤ s.cfg.bufSize →
    ∃ t, exec (.crcUpd c) s = .next t ∧
      Succeeded s t ∧ Untouched s t ∧ t.result = s.result ∧ SameBytes s t ∧ OtherContextsSame c s t ∧
      t.context c = some (match k with
        | .w16 x => .w16 { x with reg := (bytesFrom s s.arg0.toNat s.arg1.toNat).foldl x.stepByte x.reg }
        | .w32 x => .w32 { x with reg := (bytesFrom s s.arg0.toNat s.arg1.toNat).foldl x.stepByte x.reg }))

/-- R114, R119: CRC.UPD over n bytes and then over the m bytes that follow leaves the context as CRC.UPD over all n + m
bytes does. -/
def Obligations.UpdTwiceIsUpdOnce : Prop :=
  ∀ (c : Nat) (k : Crc) (s : State) (off n m : Nat), c < s.cfg.numCtx → s.context c = some k →
    off + n + m ≤ s.cfg.bufSize → s.cfg.bufSize ≤ 61440 →
    ∃ t1 t2 t, exec (.crcUpd c) { s with arg0 := BitVec.ofNat 64 off, arg1 := BitVec.ofNat 64 n } = .next t1 ∧
      exec (.crcUpd c) { t1 with arg0 := BitVec.ofNat 64 (off + n), arg1 := BitVec.ofNat 64 m } = .next t2 ∧
      exec (.crcUpd c) { s with arg0 := BitVec.ofNat 64 off, arg1 := BitVec.ofNat 64 (n + m) } = .next t ∧
      t2.ctx = t.ctx

/-- R120, R113, R121: CRC.FIN writes the W/8 big-endian bytes of F(REG) at ARG0, copies F(REG) zero-extended to RESULT, and does not
change REG, any other byte or anything else but STATUS; BADCTX, then NOCFG, then BOUNDS. -/
def Obligations.FinWritesTheDigest : Prop :=
  ∀ c : Nat, NeedsContext c (.crcFin c) ∧ ∀ s : State, c < s.cfg.numCtx →
    (∀ k : Crc, s.context c = some k → s.cfg.bufSize < s.arg0.toNat + k.bytes → FailsWith .bounds (.crcFin c) s) ∧
    (∀ x : CrcOf 16, s.context c = some (.w16 x) → s.arg0.toNat + 2 ≤ s.cfg.bufSize →
      ∃ t, exec (.crcFin c) s = .next t ∧ Succeeded s t ∧ Untouched s t ∧ SameContexts s t ∧
        t.result = (x.params.finalize x.reg).setWidth 64 ∧
        (∀ j, j < 2 → t.byteAt (s.arg0.toNat + j) = (x.params.finalize x.reg).extractLsb' (8 * (1 - j)) 8) ∧
        SameBytesOutside s.arg0.toNat 2 s t) ∧
    (∀ x : CrcOf 32, s.context c = some (.w32 x) → s.arg0.toNat + 4 ≤ s.cfg.bufSize →
      ∃ t, exec (.crcFin c) s = .next t ∧ Succeeded s t ∧ Untouched s t ∧ SameContexts s t ∧
        t.result = (x.params.finalize x.reg).setWidth 64 ∧
        (∀ j, j < 4 → t.byteAt (s.arg0.toNat + j) = (x.params.finalize x.reg).extractLsb' (8 * (3 - j)) 8) ∧
        SameBytesOutside s.arg0.toNat 4 s t)

/-- R122: CRC.CMP puts F of the fold from the truncated ARG2 over the ARG1 bytes at ARG0 in RESULT, and changes no context, no byte
and nothing else but STATUS; BADCTX, then NOCFG, then BOUNDS. -/
def Obligations.CmpComputesTheDigestValue : Prop :=
  ∀ c : Nat, NeedsContext c (.crcCmp c) ∧ ∀ (k : Crc) (s : State), c < s.cfg.numCtx → s.context c = some k →
    (s.cfg.bufSize < s.arg0.toNat + s.arg1.toNat → FailsWith .bounds (.crcCmp c) s) ∧
    (s.arg0.toNat + s.arg1.toNat ≤ s.cfg.bufSize →
    ∃ t, exec (.crcCmp c) s = .next t ∧ Succeeded s t ∧ Untouched s t ∧ SameContexts s t ∧ SameBytes s t ∧
      t.result = (match k with
        | .w16 x => (x.params.finalize
            ((bytesFrom s s.arg0.toNat s.arg1.toNat).foldl x.stepByte (s.arg2.setWidth 16))).setWidth 64
        | .w32 x => (x.params.finalize
            ((bytesFrom s s.arg0.toNat s.arg1.toNat).foldl x.stepByte (s.arg2.setWidth 32))).setWidth 64))

/-- R122, R36: CRC.CMP neither reads nor writes REG: from any other REG it has the same effect. -/
def Obligations.CmpDoesNotReadReg : Prop :=
  (∀ (c : Nat) (x : CrcOf 16) (r : BitVec 16) (s : State), s.context c = some (.w16 x) →
    exec (.crcCmp c) (s.setContext c (.w16 { x with reg := r })) =
      mapNext (fun t => t.setContext c (.w16 { x with reg := r })) (exec (.crcCmp c) s)) ∧
  (∀ (c : Nat) (x : CrcOf 32) (r : BitVec 32) (s : State), s.context c = some (.w32 x) →
    exec (.crcCmp c) (s.setContext c (.w32 { x with reg := r })) =
      mapNext (fun t => t.setContext c (.w32 { x with reg := r })) (exec (.crcCmp c) s))

/-- R114: a CRC is continued across two buffers with CRC.CMP by seeding the second call with F_inv of the first result. -/
def Obligations.CmpChainsThroughTheRegister : Prop :=
  ∀ (c : Nat) (k : Crc) (s : State) (seed : DWord) (off n m : Nat), c < s.cfg.numCtx →
    s.context c = some k → off + n + m ≤ s.cfg.bufSize → s.cfg.bufSize ≤ 61440 →
    ∃ t1 t2 t,
      exec (.crcCmp c) { s with arg0 := BitVec.ofNat 64 off, arg1 := BitVec.ofNat 64 n, arg2 := seed } = .next t1 ∧
      exec (.crcCmp c) { t1 with
        arg0 := BitVec.ofNat 64 (off + n)
        arg1 := BitVec.ofNat 64 m
        arg2 := (match k with
          | .w16 x => (x.params.unfinalize (t1.result.setWidth 16)).setWidth 64
          | .w32 x => (x.params.unfinalize (t1.result.setWidth 32)).setWidth 64) } = .next t2 ∧
      exec (.crcCmp c) { s with arg0 := BitVec.ofNat 64 off, arg1 := BitVec.ofNat 64 (n + m), arg2 := seed } = .next t ∧
      t2.result = t.result

/-- R123, R121: CRC.RD returns the selected field zero-extended (FLAGS: WSEL, RI, RO, BS in bits 0..3), a table index over 255 ends with
BOUNDS, and nothing else changes but STATUS; BADCTX, then NOCFG. -/
def Obligations.RdReturnsTheSelectedField : Prop :=
  ∀ c : Nat, (∀ sel, NeedsContext c (.crcRd c sel)) ∧
    ∀ (k : Crc) (s : State), c < s.cfg.numCtx → s.context c = some k →
    (∀ (sel : Selector) (v : DWord),
      (match k, sel with
        | .w16 x, .poly => v = x.params.poly.setWidth 64
        | .w16 x, .seed => v = x.params.seed.setWidth 64
        | .w16 x, .xorout => v = x.params.xorout.setWidth 64
        | .w16 x, .reg => v = x.reg.setWidth 64
        | .w16 x, .flags => v.toNat = 2 * x.params.ri.toNat + 4 * x.params.ro.toNat + 8 * x.params.bs.toNat
        | .w16 x, .table => ∃ h : s.arg0.toNat < 256, v = (x.table[s.arg0.toNat]).setWidth 64
        | .w32 x, .poly => v = x.params.poly.setWidth 64
        | .w32 x, .seed => v = x.params.seed.setWidth 64
        | .w32 x, .xorout => v = x.params.xorout.setWidth 64
        | .w32 x, .reg => v = x.reg.setWidth 64
        | .w32 x, .flags => v.toNat = 1 + 2 * x.params.ri.toNat + 4 * x.params.ro.toNat + 8 * x.params.bs.toNat
        | .w32 x, .table => ∃ h : s.arg0.toNat < 256, v = (x.table[s.arg0.toNat]).setWidth 64) →
      exec (.crcRd c sel) s = .next { s with result := v, status := { err := .ok, sticky := s.status.sticky } }) ∧
    (255 < s.arg0.toNat → FailsWith .bounds (.crcRd c .table) s)

/-- R124: CRC.RFL puts the reflected low W bits of ARG0 in RESULT, zeros above, and changes nothing else but STATUS. -/
def Obligations.RflReflectsArg0 : Prop :=
  ∀ s : State,
    (∃ v : DWord, exec (.crcRfl .w16) s =
        .next { s with result := v, status := { err := .ok, sticky := s.status.sticky } } ∧
      ∀ j, v.getLsbD j = (decide (j < 16) && s.arg0.getLsbD (15 - j))) ∧
    (∃ v : DWord, exec (.crcRfl .w32) s =
        .next { s with result := v, status := { err := .ok, sticky := s.status.sticky } } ∧
      ∀ j, v.getLsbD j = (decide (j < 32) && s.arg0.getLsbD (31 - j)))

/-! ## Bit codec -/

/-- R150-R154, R142, R143: in bounds, in either tier and with either NATIVE_ENDIAN, an encode command writes the low N bits of ARG0 at
ARG1, the least significant byte lowest (E = 0) or highest (E = 1), and changes no other byte and nothing else but STATUS; out of
bounds the safe tier ends with BOUNDS and the raw tier is the fault. -/
def Obligations.EncodeWritesTheBytes : Prop :=
  ∀ row ∈ [(Instr.encI16, CodecOp.encI16, 2), (.encI32, .encI32, 4), (.encI64, .encI64, 8), (.encF32, .encF32, 4),
           (.encF64, .encF64, 8)],
    ∀ (e : Endian) (s : State),
      (∀ tier : Tier, s.arg1.toNat + row.2.2 ≤ s.cfg.bufSize →
        ∃ t, exec (row.1 e tier) s = .next t ∧ Succeeded s t ∧ Untouched s t ∧ t.result = s.result ∧ SameContexts s t ∧
          (∀ j, j < row.2.2 → t.byteAt (s.arg1.toNat + j) =
            byteOf s.arg0 (match e with | .little => j | .big => row.2.2 - 1 - j)) ∧
          SameBytesOutside s.arg1.toNat row.2.2 s t) ∧
      (s.cfg.bufSize < s.arg1.toNat + row.2.2 → FailsWith .bounds (row.1 e .safe) s ∧
        exec (row.1 e .raw) s = .fault (.undefinedBehaviour (.rawOutOfBounds row.2.1 s.arg1.toNat)))

/-- R155-R159, R147, R148: in bounds, in either tier and with either NATIVE_ENDIAN, a decode command puts the number that the bytes
at ARG1 make in RESULT, sign-extended for I16 and I32, zero-extended for F32, every pattern as it is, and changes nothing else but
STATUS; out of bounds the safe tier ends with BOUNDS and the raw tier is the fault. -/
def Obligations.DecodeReturnsTheValue : Prop :=
  ∀ row ∈ [(Instr.decI16, CodecOp.decI16, 2, fun n : Nat => (BitVec.ofNat 16 n).signExtend 64),
           (.decI32, .decI32, 4, fun n => (BitVec.ofNat 32 n).signExtend 64),
           (.decI64, .decI64, 8, fun n => BitVec.ofNat 64 n),
           (.decF32, .decF32, 4, fun n => BitVec.ofNat 64 n),
           (.decF64, .decF64, 8, fun n => BitVec.ofNat 64 n)],
    ∀ (e : Endian) (s : State),
      (∀ tier : Tier, s.arg1.toNat + row.2.2.1 ≤ s.cfg.bufSize →
        exec (row.1 e tier) s = .next { s with
          result := row.2.2.2 (numberAt e s s.arg1.toNat row.2.2.1)
          status := { err := .ok, sticky := s.status.sticky } }) ∧
      (s.cfg.bufSize < s.arg1.toNat + row.2.2.1 → FailsWith .bounds (row.1 e .safe) s ∧
        exec (row.1 e .raw) s = .fault (.undefinedBehaviour (.rawOutOfBounds row.2.1 s.arg1.toNat)))

/-- R144: outside BUF the safe tier of every codec command ends with BOUNDS, writes no byte and leaves RESULT. -/
def Obligations.SafeTierIsBoundsChecked : Prop :=
  ∀ (i : Instr) (op : CodecOp) (n : Nat) (s : State), codecForm i = some (op, n, .safe) →
    (s.cfg.bufSize < s.arg1.toNat + n → FailsWith .bounds i s) ∧
    (s.arg1.toNat + n ≤ s.cfg.bufSize → ∃ t, exec i s = .next t ∧ t.status.err = .ok)

/-- R145: in bounds the raw tier does exactly what the safe tier does; outside BUF it is the fault, and has no next state. -/
def Obligations.RawTierIsTheSafeTierInBounds : Prop :=
  ∀ row ∈ [(Instr.encI16, CodecOp.encI16, 2), (.encI32, .encI32, 4), (.encI64, .encI64, 8), (.encF32, .encF32, 4),
           (.encF64, .encF64, 8), (.decI16, .decI16, 2), (.decI32, .decI32, 4), (.decI64, .decI64, 8),
           (.decF32, .decF32, 4), (.decF64, .decF64, 8)],
    ∀ (e : Endian) (s : State),
      (s.arg1.toNat + row.2.2 ≤ s.cfg.bufSize → exec (row.1 e .raw) s = exec (row.1 e .safe) s) ∧
      (s.cfg.bufSize < s.arg1.toNat + row.2.2 →
        exec (row.1 e .raw) s = .fault (.undefinedBehaviour (.rawOutOfBounds row.2.1 s.arg1.toNat)))

/-- R149 item 1: encoding and then decoding at the same offset, kind and byte order, in any tiers, returns the widened low N bits
of ARG0. -/
def Obligations.EncodeThenDecodeReturnsTheValue : Prop :=
  ∀ row ∈ [(Instr.encI16, Instr.decI16, 2, fun v : DWord => (v.setWidth 16).signExtend 64),
           (Instr.encI32, Instr.decI32, 4, fun v : DWord => (v.setWidth 32).signExtend 64),
           (Instr.encI64, Instr.decI64, 8, fun v : DWord => v),
           (Instr.encF32, Instr.decF32, 4, fun v : DWord => (v.setWidth 32).setWidth 64),
           (Instr.encF64, Instr.decF64, 8, fun v : DWord => v)],
    ∀ (e : Endian) (tier tier' : Tier) (s : State), s.arg1.toNat + row.2.2.1 ≤ s.cfg.bufSize →
      ∃ t u, exec (row.1 e tier) s = .next t ∧ exec (row.2.1 e tier') t = .next u ∧ u.result = row.2.2.2 s.arg0

/-- R141: a codec command neither reads nor writes any CRC context; an encode command writes only BUF and STATUS, a decode command
only RESULT and STATUS. -/
def Obligations.CodecTouchesOnlyItsOwn : Prop :=
  ∀ (i : Instr) (s : State), (codecForm i).isSome →
    (∀ x : List (Option Crc), exec i { s with ctx := x } = mapNext (fun t => { t with ctx := x }) (exec i s)) ∧
    (∀ t : State, exec i s = .next t →
      Untouched s t ∧ t.ctx = s.ctx ∧ (returnsValue i = true → t.buf = s.buf) ∧
        (returnsValue i = false → t.result = s.result))
end

