-- ==== Sys2Proof/Laws/State.lean ====
section
/-! SUPPORT. One lemma per field per update of State, true by rfl, so that no later proof unfolds a record update. -/
namespace Sys2Proof.Machine

/-! ## State.endWith -/

@[simp] theorem State.endWith_cfg (s : State) (e : ErrCode) : (s.endWith e).cfg = s.cfg := rfl
@[simp] theorem State.endWith_arg0 (s : State) (e : ErrCode) : (s.endWith e).arg0 = s.arg0 := rfl
@[simp] theorem State.endWith_arg1 (s : State) (e : ErrCode) : (s.endWith e).arg1 = s.arg1 := rfl
@[simp] theorem State.endWith_arg2 (s : State) (e : ErrCode) : (s.endWith e).arg2 = s.arg2 := rfl
@[simp] theorem State.endWith_arg3 (s : State) (e : ErrCode) : (s.endWith e).arg3 = s.arg3 := rfl
@[simp] theorem State.endWith_result (s : State) (e : ErrCode) : (s.endWith e).result = s.result := rfl
@[simp] theorem State.endWith_status (s : State) (e : ErrCode) : (s.endWith e).status = s.status.after e := rfl
@[simp] theorem State.endWith_lastcmd (s : State) (e : ErrCode) : (s.endWith e).lastcmd = s.lastcmd := rfl
@[simp] theorem State.endWith_ctx (s : State) (e : ErrCode) : (s.endWith e).ctx = s.ctx := rfl
@[simp] theorem State.endWith_buf (s : State) (e : ErrCode) : (s.endWith e).buf = s.buf := rfl
@[simp] theorem State.endWith_bufDraw (s : State) (e : ErrCode) : (s.endWith e).bufDraw = s.bufDraw := rfl
@[simp] theorem State.endWith_pending (s : State) (e : ErrCode) : (s.endWith e).pending = s.pending := rfl
@[simp] theorem State.endWith_replies (s : State) (e : ErrCode) : (s.endWith e).replies = s.replies := rfl

/-! ## State.setResult -/

@[simp] theorem State.setResult_cfg (s : State) (v : DWord) : (s.setResult v).cfg = s.cfg := rfl
@[simp] theorem State.setResult_arg0 (s : State) (v : DWord) : (s.setResult v).arg0 = s.arg0 := rfl
@[simp] theorem State.setResult_arg1 (s : State) (v : DWord) : (s.setResult v).arg1 = s.arg1 := rfl
@[simp] theorem State.setResult_arg2 (s : State) (v : DWord) : (s.setResult v).arg2 = s.arg2 := rfl
@[simp] theorem State.setResult_arg3 (s : State) (v : DWord) : (s.setResult v).arg3 = s.arg3 := rfl
@[simp] theorem State.setResult_result (s : State) (v : DWord) : (s.setResult v).result = v := rfl
@[simp] theorem State.setResult_status (s : State) (v : DWord) : (s.setResult v).status = s.status := rfl
@[simp] theorem State.setResult_lastcmd (s : State) (v : DWord) : (s.setResult v).lastcmd = s.lastcmd := rfl
@[simp] theorem State.setResult_ctx (s : State) (v : DWord) : (s.setResult v).ctx = s.ctx := rfl
@[simp] theorem State.setResult_buf (s : State) (v : DWord) : (s.setResult v).buf = s.buf := rfl
@[simp] theorem State.setResult_bufDraw (s : State) (v : DWord) : (s.setResult v).bufDraw = s.bufDraw := rfl
@[simp] theorem State.setResult_pending (s : State) (v : DWord) : (s.setResult v).pending = s.pending := rfl
@[simp] theorem State.setResult_replies (s : State) (v : DWord) : (s.setResult v).replies = s.replies := rfl

/-! ## State.setContext -/

@[simp] theorem State.setContext_cfg (s : State) (c : Nat) (k : Crc) : (s.setContext c k).cfg = s.cfg := rfl
@[simp] theorem State.setContext_arg0 (s : State) (c : Nat) (k : Crc) : (s.setContext c k).arg0 = s.arg0 := rfl
@[simp] theorem State.setContext_arg1 (s : State) (c : Nat) (k : Crc) : (s.setContext c k).arg1 = s.arg1 := rfl
@[simp] theorem State.setContext_arg2 (s : State) (c : Nat) (k : Crc) : (s.setContext c k).arg2 = s.arg2 := rfl
@[simp] theorem State.setContext_arg3 (s : State) (c : Nat) (k : Crc) : (s.setContext c k).arg3 = s.arg3 := rfl
@[simp] theorem State.setContext_result (s : State) (c : Nat) (k : Crc) : (s.setContext c k).result = s.result := rfl
@[simp] theorem State.setContext_status (s : State) (c : Nat) (k : Crc) : (s.setContext c k).status = s.status := rfl
@[simp] theorem State.setContext_lastcmd (s : State) (c : Nat) (k : Crc) : (s.setContext c k).lastcmd = s.lastcmd := rfl
@[simp] theorem State.setContext_ctx (s : State) (c : Nat) (k : Crc) : (s.setContext c k).ctx = s.ctx.set c (some k) := rfl
@[simp] theorem State.setContext_buf (s : State) (c : Nat) (k : Crc) : (s.setContext c k).buf = s.buf := rfl
@[simp] theorem State.setContext_bufDraw (s : State) (c : Nat) (k : Crc) : (s.setContext c k).bufDraw = s.bufDraw := rfl
@[simp] theorem State.setContext_pending (s : State) (c : Nat) (k : Crc) : (s.setContext c k).pending = s.pending := rfl
@[simp] theorem State.setContext_replies (s : State) (c : Nat) (k : Crc) : (s.setContext c k).replies = s.replies := rfl

/-! ## State.bufWrite -/

@[simp] theorem State.bufWrite_cfg (s : State) (off : Nat) (bs : List Byte) : (s.bufWrite off bs).cfg = s.cfg := rfl
@[simp] theorem State.bufWrite_arg0 (s : State) (off : Nat) (bs : List Byte) : (s.bufWrite off bs).arg0 = s.arg0 := rfl
@[simp] theorem State.bufWrite_arg1 (s : State) (off : Nat) (bs : List Byte) : (s.bufWrite off bs).arg1 = s.arg1 := rfl
@[simp] theorem State.bufWrite_arg2 (s : State) (off : Nat) (bs : List Byte) : (s.bufWrite off bs).arg2 = s.arg2 := rfl
@[simp] theorem State.bufWrite_arg3 (s : State) (off : Nat) (bs : List Byte) : (s.bufWrite off bs).arg3 = s.arg3 := rfl
@[simp] theorem State.bufWrite_result (s : State) (off : Nat) (bs : List Byte) : (s.bufWrite off bs).result = s.result := rfl
@[simp] theorem State.bufWrite_status (s : State) (off : Nat) (bs : List Byte) : (s.bufWrite off bs).status = s.status := rfl
@[simp] theorem State.bufWrite_lastcmd (s : State) (off : Nat) (bs : List Byte) : (s.bufWrite off bs).lastcmd = s.lastcmd := rfl
@[simp] theorem State.bufWrite_ctx (s : State) (off : Nat) (bs : List Byte) : (s.bufWrite off bs).ctx = s.ctx := rfl
@[simp] theorem State.bufWrite_buf (s : State) (off : Nat) (bs : List Byte) : (s.bufWrite off bs).buf = s.buf.storeAll off bs := rfl
@[simp] theorem State.bufWrite_bufDraw (s : State) (off : Nat) (bs : List Byte) : (s.bufWrite off bs).bufDraw = s.bufDraw := rfl
@[simp] theorem State.bufWrite_pending (s : State) (off : Nat) (bs : List Byte) : (s.bufWrite off bs).pending = s.pending := rfl
@[simp] theorem State.bufWrite_replies (s : State) (off : Nat) (bs : List Byte) : (s.bufWrite off bs).replies = s.replies := rfl

/-! ## State.writeStatus -/

@[simp] theorem State.writeStatus_cfg (s : State) (v : Word) : (s.writeStatus v).cfg = s.cfg := rfl
@[simp] theorem State.writeStatus_arg0 (s : State) (v : Word) : (s.writeStatus v).arg0 = s.arg0 := rfl
@[simp] theorem State.writeStatus_arg1 (s : State) (v : Word) : (s.writeStatus v).arg1 = s.arg1 := rfl
@[simp] theorem State.writeStatus_arg2 (s : State) (v : Word) : (s.writeStatus v).arg2 = s.arg2 := rfl
@[simp] theorem State.writeStatus_arg3 (s : State) (v : Word) : (s.writeStatus v).arg3 = s.arg3 := rfl
@[simp] theorem State.writeStatus_result (s : State) (v : Word) : (s.writeStatus v).result = s.result := rfl
@[simp] theorem State.writeStatus_status (s : State) (v : Word) : (s.writeStatus v).status = s.status.hostWrite v := rfl
@[simp] theorem State.writeStatus_lastcmd (s : State) (v : Word) : (s.writeStatus v).lastcmd = s.lastcmd := rfl
@[simp] theorem State.writeStatus_ctx (s : State) (v : Word) : (s.writeStatus v).ctx = s.ctx := rfl
@[simp] theorem State.writeStatus_buf (s : State) (v : Word) : (s.writeStatus v).buf = s.buf := rfl
@[simp] theorem State.writeStatus_bufDraw (s : State) (v : Word) : (s.writeStatus v).bufDraw = s.bufDraw := rfl
@[simp] theorem State.writeStatus_pending (s : State) (v : Word) : (s.writeStatus v).pending = s.pending := rfl
@[simp] theorem State.writeStatus_replies (s : State) (v : Word) : (s.writeStatus v).replies = s.replies := rfl

/-! ## State.answer -/

@[simp] theorem State.answer_cfg (s : State) (r : Reply) : (s.answer r).cfg = s.cfg := rfl
@[simp] theorem State.answer_arg0 (s : State) (r : Reply) : (s.answer r).arg0 = s.arg0 := rfl
@[simp] theorem State.answer_arg1 (s : State) (r : Reply) : (s.answer r).arg1 = s.arg1 := rfl
@[simp] theorem State.answer_arg2 (s : State) (r : Reply) : (s.answer r).arg2 = s.arg2 := rfl
@[simp] theorem State.answer_arg3 (s : State) (r : Reply) : (s.answer r).arg3 = s.arg3 := rfl
@[simp] theorem State.answer_result (s : State) (r : Reply) : (s.answer r).result = s.result := rfl
@[simp] theorem State.answer_status (s : State) (r : Reply) : (s.answer r).status = s.status := rfl
@[simp] theorem State.answer_lastcmd (s : State) (r : Reply) : (s.answer r).lastcmd = s.lastcmd := rfl
@[simp] theorem State.answer_ctx (s : State) (r : Reply) : (s.answer r).ctx = s.ctx := rfl
@[simp] theorem State.answer_buf (s : State) (r : Reply) : (s.answer r).buf = s.buf := rfl
@[simp] theorem State.answer_bufDraw (s : State) (r : Reply) : (s.answer r).bufDraw = s.bufDraw := rfl
@[simp] theorem State.answer_pending (s : State) (r : Reply) : (s.answer r).pending = s.pending := rfl
@[simp] theorem State.answer_replies (s : State) (r : Reply) : (s.answer r).replies = r :: s.replies := rfl

/-! ## State.softReset -/

@[simp] theorem State.softReset_cfg (s : State) : (s.softReset).cfg = s.cfg := rfl
@[simp] theorem State.softReset_arg0 (s : State) : (s.softReset).arg0 = 0 := rfl
@[simp] theorem State.softReset_arg1 (s : State) : (s.softReset).arg1 = 0 := rfl
@[simp] theorem State.softReset_arg2 (s : State) : (s.softReset).arg2 = 0 := rfl
@[simp] theorem State.softReset_arg3 (s : State) : (s.softReset).arg3 = 0 := rfl
@[simp] theorem State.softReset_result (s : State) : (s.softReset).result = 0 := rfl
@[simp] theorem State.softReset_status (s : State) : (s.softReset).status = { err := .ok, sticky := false } := rfl
@[simp] theorem State.softReset_lastcmd (s : State) : (s.softReset).lastcmd = 0 := rfl
@[simp] theorem State.softReset_ctx (s : State) : (s.softReset).ctx = List.replicate s.cfg.numCtx none := rfl
@[simp] theorem State.softReset_buf (s : State) : (s.softReset).buf = s.buf := rfl
@[simp] theorem State.softReset_bufDraw (s : State) : (s.softReset).bufDraw = s.bufDraw := rfl
@[simp] theorem State.softReset_pending (s : State) : (s.softReset).pending = s.pending := rfl
@[simp] theorem State.softReset_replies (s : State) : (s.softReset).replies = s.replies := rfl

/-! ## State.hardReset -/

@[simp] theorem State.hardReset_cfg (s : State) : (s.hardReset).cfg = s.cfg := rfl
@[simp] theorem State.hardReset_arg0 (s : State) : (s.hardReset).arg0 = 0 := rfl
@[simp] theorem State.hardReset_arg1 (s : State) : (s.hardReset).arg1 = 0 := rfl
@[simp] theorem State.hardReset_arg2 (s : State) : (s.hardReset).arg2 = 0 := rfl
@[simp] theorem State.hardReset_arg3 (s : State) : (s.hardReset).arg3 = 0 := rfl
@[simp] theorem State.hardReset_result (s : State) : (s.hardReset).result = 0 := rfl
@[simp] theorem State.hardReset_status (s : State) : (s.hardReset).status = { err := .ok, sticky := false } := rfl
@[simp] theorem State.hardReset_lastcmd (s : State) : (s.hardReset).lastcmd = 0 := rfl
@[simp] theorem State.hardReset_ctx (s : State) : (s.hardReset).ctx = List.replicate s.cfg.numCtx none := rfl
@[simp] theorem State.hardReset_buf (s : State) : (s.hardReset).buf = [] := rfl
@[simp] theorem State.hardReset_bufDraw (s : State) : (s.hardReset).bufDraw = s.bufDraw + 1 := rfl
@[simp] theorem State.hardReset_pending (s : State) : (s.hardReset).pending = s.pending := rfl
@[simp] theorem State.hardReset_replies (s : State) : (s.hardReset).replies = s.replies := rfl

/-! ## STATUS -/

@[simp] theorem Status.after_err (st : Status) (e : ErrCode) : (st.after e).err = e := rfl
@[simp] theorem Status.after_ok_sticky (st : Status) : (st.after .ok).sticky = st.sticky := by simp [Status.after]
theorem Status.after_sticky (st : Status) (e : ErrCode) :
    (st.after e).sticky = (st.sticky || decide (e ≠ .ok)) := rfl
theorem Status.after_ok (st : Status) : st.after .ok = { err := .ok, sticky := st.sticky } := by simp [Status.after]
theorem Status.after_error (st : Status) (e : ErrCode) (h : e ≠ .ok) : st.after e = { err := e, sticky := true } := by
  simp [Status.after, h]
@[simp] theorem Status.hostWrite_err (st : Status) (v : Word) : (st.hostWrite v).err = st.err := rfl
@[simp] theorem Status.hostWrite_sticky (st : Status) (v : Word) :
    (st.hostWrite v).sticky = (st.sticky && !v.getLsbD 8) := rfl

end Sys2Proof.Machine
end

