-- ==== Sys2Proof/Laws/Memory.lean ====
section
/-! SUPPORT. BUF: read after write, writes leave other bytes alone, and every memory operation keeps the canonical form. -/
namespace Sys2Proof.Machine

/-! ## One byte -/

@[simp] theorem Memory.written_store_same (m : Memory) (a : Nat) (v : Byte) : (m.store a v).written a = some v := by
  induction m with
  | nil => simp [Memory.store, Memory.written]
  | cons cell m ih =>
    obtain ⟨k, b⟩ := cell
    simp only [Memory.store]
    split
    · simp [Memory.written]
    · split
      · simp [Memory.written]
      · simp [Memory.written, *]

theorem Memory.written_store_other (m : Memory) (a a' : Nat) (v : Byte) (h : a' ≠ a) :
    (m.store a v).written a' = m.written a' := by
  induction m with
  | nil => simp [Memory.store, Memory.written, h]
  | cons cell m ih =>
    obtain ⟨k, b⟩ := cell
    simp only [Memory.store]
    split
    · simp [Memory.written, h]
    · split
      · rename_i hk
        subst hk
        simp [Memory.written, h]
      · simp [Memory.written, ih]

theorem Memory.mem_store (m : Memory) (a : Nat) (v : Byte) (cell : Host.Cell) (h : cell ∈ m.store a v) :
    cell = (a, v) ∨ cell ∈ m := by
  induction m with
  | nil => simpa [Memory.store] using h
  | cons c m ih =>
    obtain ⟨k, b⟩ := c
    simp only [Memory.store] at h
    split at h
    · simpa using h
    · split at h
      · simp only [List.mem_cons] at h ⊢
        exact h.imp_right .inr
      · simp only [List.mem_cons] at h ⊢
        rcases h with h | h
        · exact .inr (.inl h)
        · exact (ih h).imp_right .inr

theorem Memory.store_wf (m : Memory) (a : Nat) (v : Byte) (h : m.wf) : (m.store a v).wf := by
  induction m with
  | nil => simp [Memory.store]
  | cons c m ih =>
    obtain ⟨k, b⟩ := c
    obtain ⟨hk, hm⟩ := List.pairwise_cons.mp h
    simp only [Memory.store]
    split
    · rename_i hlt
      refine List.pairwise_cons.mpr ⟨fun y hy => ?_, h⟩
      rcases List.mem_cons.mp hy with rfl | hy
      · exact hlt
      · exact Nat.lt_trans hlt (hk y hy)
    · split
      · rename_i heq
        subst heq
        exact List.pairwise_cons.mpr ⟨fun y hy => hk y hy, hm⟩
      · refine List.pairwise_cons.mpr ⟨fun y hy => ?_, ih hm⟩
        rcases Memory.mem_store m a v y hy with rfl | hy
        · simp only; omega
        · exact hk y hy

/-! ## Several bytes -/

theorem Memory.written_storeAll_outside (m : Memory) (off : Nat) (bs : List Byte) (a : Nat)
    (h : a < off ∨ off + bs.length ≤ a) : (m.storeAll off bs).written a = m.written a := by
  induction bs generalizing m off with
  | nil => rfl
  | cons b bs ih =>
    simp only [List.length_cons] at h
    rw [Memory.storeAll, ih _ _ (by omega), Memory.written_store_other _ _ _ _ (by omega)]

theorem Memory.written_storeAll_inside (m : Memory) (off : Nat) (bs : List Byte) (j : Nat) (h : j < bs.length) :
    (m.storeAll off bs).written (off + j) = some bs[j] := by
  induction bs generalizing m off j with
  | nil => simp at h
  | cons b bs ih =>
    rw [Memory.storeAll]
    cases j with
    | zero => rw [Memory.written_storeAll_outside _ _ _ _ (by omega)]; simp
    | succ j =>
      have := ih (m.store off b) (off + 1) j (by simpa using h)
      rw [show off + (j + 1) = off + 1 + j by omega, this]; simp

theorem Memory.storeAll_wf (m : Memory) (off : Nat) (bs : List Byte) (h : m.wf) : (m.storeAll off bs).wf := by
  induction bs generalizing m off with
  | nil => exact h
  | cons b bs ih => exact ih _ _ (Memory.store_wf m off b h)

theorem Memory.mem_storeAll (m : Memory) (off : Nat) (bs : List Byte) (cell : Host.Cell) (h : cell ∈ m.storeAll off bs) :
    (off ≤ cell.1 ∧ cell.1 < off + bs.length) ∨ cell ∈ m := by
  induction bs generalizing m off with
  | nil => exact .inr h
  | cons b bs ih =>
    rcases ih _ _ h with hin | hmem
    · simp only [List.length_cons]; left; omega
    · rcases Memory.mem_store m off b cell hmem with rfl | hmem
      · simp only [List.length_cons]; left; omega
      · exact .inr hmem

/-- Memory is in canonical form at reset. -/
theorem State.reset_buf_wf : State.reset.buf.wf := by decide

/-- The writes of commands and of the host keep the canonical form. -/
theorem State.bufWrite_wf (s : State) (off : Nat) (bs : List Byte) (h : s.buf.wf) : (s.bufWrite off bs).buf.wf :=
  Memory.storeAll_wf s.buf off bs h

/-- Both resets leave memory in canonical form. -/
theorem State.softReset_wf (s : State) (h : s.buf.wf) : s.softReset.buf.wf := h

theorem State.hardReset_wf (s : State) : s.hardReset.buf.wf := .nil

/-! ## Reading BUF -/

theorem State.byteAt_congr (s t : State) (hb : t.buf = s.buf) (hd : t.bufDraw = s.bufDraw) (a : Nat) :
    t.byteAt a = s.byteAt a := by
  simp [State.byteAt, hb, hd]

@[simp] theorem State.byteAt_endWith (s : State) (e : ErrCode) (a : Nat) : (s.endWith e).byteAt a = s.byteAt a := rfl
@[simp] theorem State.byteAt_setResult (s : State) (v : DWord) (a : Nat) : (s.setResult v).byteAt a = s.byteAt a := rfl
@[simp] theorem State.byteAt_setContext (s : State) (c : Nat) (k : Crc) (a : Nat) :
    (s.setContext c k).byteAt a = s.byteAt a := rfl
@[simp] theorem State.byteAt_softReset (s : State) (a : Nat) : s.softReset.byteAt a = s.byteAt a := rfl
@[simp] theorem State.byteAt_answer (s : State) (r : Reply) (a : Nat) : (s.answer r).byteAt a = s.byteAt a := rfl

/-- After a hardware reset every byte is the free byte of the new draw. -/
theorem State.byteAt_hardReset (s : State) (a : Nat) :
    s.hardReset.byteAt a = Config.powerOnByte (s.bufDraw + 1) a := rfl

theorem State.byteAt_bufWrite_inside (s : State) (off : Nat) (bs : List Byte) (j : Nat) (h : j < bs.length) :
    (s.bufWrite off bs).byteAt (off + j) = bs[j] := by
  simp [State.byteAt, Memory.written_storeAll_inside, h]

theorem State.byteAt_bufWrite_outside (s : State) (off : Nat) (bs : List Byte) (a : Nat)
    (h : a < off ∨ off + bs.length ≤ a) : (s.bufWrite off bs).byteAt a = s.byteAt a := by
  simp [State.byteAt, Memory.written_storeAll_outside, h]

@[simp] theorem State.bufRead_length (s : State) (off n : Nat) : (s.bufRead off n).length = n := by simp [State.bufRead]

theorem State.bufRead_congr (s t : State) (hb : t.buf = s.buf) (hd : t.bufDraw = s.bufDraw) (off n : Nat) :
    t.bufRead off n = s.bufRead off n := by
  simp [State.bufRead, State.byteAt_congr s t hb hd]

/-- Reading n + m bytes is reading n and then the m that follow. -/
theorem State.bufRead_add (s : State) (off n m : Nat) :
    s.bufRead off (n + m) = s.bufRead off n ++ s.bufRead (off + n) m := by
  simp [State.bufRead, List.range_add, Function.comp_def, Nat.add_assoc]

/-- Reading the bytes just written gives them back. -/
theorem State.bufRead_bufWrite (s : State) (off : Nat) (bs : List Byte) :
    (s.bufWrite off bs).bufRead off bs.length = bs := by
  apply List.ext_getElem
  · simp
  · intro j _ hj
    simp [State.bufRead, State.byteAt_bufWrite_inside, hj]

/-! ## Contexts -/

@[simp] theorem State.context_endWith (s : State) (e : ErrCode) (d : Nat) : (s.endWith e).context d = s.context d := rfl
@[simp] theorem State.context_setResult (s : State) (v : DWord) (d : Nat) : (s.setResult v).context d = s.context d := rfl
@[simp] theorem State.context_bufWrite (s : State) (off : Nat) (bs : List Byte) (d : Nat) :
    (s.bufWrite off bs).context d = s.context d := rfl

/-- A configured context is one of the contexts there are. -/
theorem State.lt_of_context (s : State) (c : Nat) (k : Crc) (h : s.context c = some k) : c < s.ctx.length := by
  by_contra hn
  simp [State.context, List.getElem?_eq_none (Nat.le_of_not_lt hn)] at h

theorem State.context_setContext_same (s : State) (c : Nat) (k : Crc) (h : c < s.ctx.length) :
    (s.setContext c k).context c = some k := by
  simp [State.context, h]

theorem State.context_setContext_other (s : State) (c d : Nat) (k : Crc) (h : d ≠ c) :
    (s.setContext c k).context d = s.context d := by
  simp [State.context, List.getElem?_set_ne (Ne.symm h)]

end Sys2Proof.Machine
end

