-- ==== Sys2Proof/Laws/Outcomes.lean ====
section
/-! SUPPORT. The shared checks and the ends of a command: one lemma each that says everything the operation can do. -/
namespace Sys2Proof.Machine

/-! ## Ends -/

@[simp] theorem mapNext_next (f : State → State) (s : State) : mapNext f (.next s) = .next (f s) := rfl
@[simp] theorem mapNext_fault (f : State → State) (r : Fault) : mapNext f (.fault r) = .fault r := rfl
@[simp] theorem mapNext_refused (f : State → State) (r : Refusal) : mapNext f (.refused r) = .refused r := rfl

theorem mapNext_eq_next (f : State → State) (o : Outcome) (t : State) (h : mapNext f o = .next t) :
    ∃ s, o = .next s ∧ t = f s := by
  cases o with
  | next s => exact ⟨s, rfl, by simpa using h.symm⟩
  | fault r => simp at h
  | refused r => simp at h

theorem complete_eq (s : State) :
    complete s = .next { s with status := { err := .ok, sticky := s.status.sticky } } := by
  simp [complete, State.endWith, Status.after_ok]

/-- An error writes STATUS and nothing else (60_exceptions.md R181). -/
theorem raiseErr_eq (e : ErrCode) (s : State) (h : e ≠ .ok) :
    raiseErr e s = .next { s with status := { err := e, sticky := true } } := by
  simp [raiseErr, State.endWith, Status.after_error _ _ h]

/-! ## Checks -/

theorem checkIndex_pass (c : Nat) (s : State) (body : Outcome) (h : c < s.cfg.numCtx) : checkIndex c s body = body := by
  simp [checkIndex, h]

theorem checkIndex_fail (c : Nat) (s : State) (body : Outcome) (h : s.cfg.numCtx ≤ c) :
    checkIndex c s body = raiseErr .badctx s := by
  simp [checkIndex, Nat.not_lt.mpr h]

theorem useContext_pass (c : Nat) (s : State) (body : Crc → Outcome) (k : Crc) (h : c < s.cfg.numCtx)
    (hk : s.context c = some k) : useContext c s body = body k := by
  simp [useContext, checkIndex_pass _ _ _ h, hk]

theorem useContext_badctx (c : Nat) (s : State) (body : Crc → Outcome) (h : s.cfg.numCtx ≤ c) :
    useContext c s body = raiseErr .badctx s := checkIndex_fail _ _ _ h

theorem useContext_nocfg (c : Nat) (s : State) (body : Crc → Outcome) (h : c < s.cfg.numCtx) (hk : s.context c = none) :
    useContext c s body = raiseErr .nocfg s := by
  simp [useContext, checkIndex_pass _ _ _ h, hk]

theorem checkBounds_pass (off n : Nat) (e : ErrCode) (s : State) (body : Outcome) (h : off + n ≤ s.cfg.bufSize) :
    checkBounds off n e s body = body := by
  simp [checkBounds, State.inBounds, h]

theorem checkBounds_fail (off n : Nat) (e : ErrCode) (s : State) (body : Outcome) (h : s.cfg.bufSize < off + n) :
    checkBounds off n e s body = raiseErr e s := by
  simp [checkBounds, State.inBounds, Nat.not_le.mpr h]

theorem codecBounds_pass (op : CodecOp) (tier : Tier) (off n : Nat) (s : State) (body : Outcome)
    (h : off + n ≤ s.cfg.bufSize) : codecBounds op tier off n s body = body := by
  simp [codecBounds, State.inBounds, h]

theorem codecBounds_safe (op : CodecOp) (off n : Nat) (s : State) (body : Outcome) (h : s.cfg.bufSize < off + n) :
    codecBounds op .safe off n s body = raiseErr .bounds s := by
  simp [codecBounds, State.inBounds, Nat.not_le.mpr h]

theorem codecBounds_raw (op : CodecOp) (off n : Nat) (s : State) (body : Outcome) (h : s.cfg.bufSize < off + n) :
    codecBounds op .raw off n s body = .fault (.undefinedBehaviour (.rawOutOfBounds op off)) := by
  simp [codecBounds, State.inBounds, Nat.not_le.mpr h]

/-- What `checkIndex` can do. -/
theorem checkIndex_cases (c : Nat) (s : State) (body : Outcome) :
    (c < s.cfg.numCtx ∧ checkIndex c s body = body) ∨ (s.cfg.numCtx ≤ c ∧ checkIndex c s body = raiseErr .badctx s) := by
  rcases Nat.lt_or_ge c s.cfg.numCtx with h | h
  · exact .inl ⟨h, checkIndex_pass c s body h⟩
  · exact .inr ⟨h, checkIndex_fail c s body h⟩

/-- What `useContext` can do. -/
theorem useContext_cases (c : Nat) (s : State) (body : Crc → Outcome) :
    (∃ k, c < s.cfg.numCtx ∧ s.context c = some k ∧ useContext c s body = body k) ∨
    (c < s.cfg.numCtx ∧ s.context c = none ∧ useContext c s body = raiseErr .nocfg s) ∨
    (s.cfg.numCtx ≤ c ∧ useContext c s body = raiseErr .badctx s) := by
  rcases Nat.lt_or_ge c s.cfg.numCtx with h | h
  · cases hk : s.context c with
    | none => exact .inr (.inl ⟨h, rfl, useContext_nocfg c s body h hk⟩)
    | some k => exact .inl ⟨k, h, rfl, useContext_pass c s body k h hk⟩
  · exact .inr (.inr ⟨h, useContext_badctx c s body h⟩)

/-- What `checkBounds` can do. -/
theorem checkBounds_cases (off n : Nat) (e : ErrCode) (s : State) (body : Outcome) :
    (off + n ≤ s.cfg.bufSize ∧ checkBounds off n e s body = body) ∨
    (s.cfg.bufSize < off + n ∧ checkBounds off n e s body = raiseErr e s) := by
  rcases Nat.lt_or_ge s.cfg.bufSize (off + n) with h | h
  · exact .inr ⟨h, checkBounds_fail off n e s body h⟩
  · exact .inl ⟨h, checkBounds_pass off n e s body h⟩

/-- What `codecBounds` can do. -/
theorem codecBounds_cases (op : CodecOp) (tier : Tier) (off n : Nat) (s : State) (body : Outcome) :
    (off + n ≤ s.cfg.bufSize ∧ codecBounds op tier off n s body = body) ∨
    (s.cfg.bufSize < off + n ∧ tier = .safe ∧ codecBounds op tier off n s body = raiseErr .bounds s) ∨
    (s.cfg.bufSize < off + n ∧ tier = .raw ∧
      codecBounds op tier off n s body = .fault (.undefinedBehaviour (.rawOutOfBounds op off))) := by
  rcases Nat.lt_or_ge s.cfg.bufSize (off + n) with h | h
  · cases tier with
    | safe => exact .inr (.inl ⟨h, rfl, codecBounds_safe op off n s body h⟩)
    | raw => exact .inr (.inr ⟨h, rfl, codecBounds_raw op off n s body h⟩)
  · exact .inl ⟨h, codecBounds_pass op tier off n s body h⟩

end Sys2Proof.Machine
end

