-- ==== Sys2Proof/Laws/Exec.lean ====
section
/-! SUPPORT. Everything a command can do, said once (`exec_outcome`), and everything a step can do around it (`step_cases`). -/
namespace Sys2Proof.Machine

/-- Two contexts of one width with the same parameters and the same table; only REG may differ. -/
def SameButReg : Crc → Crc → Prop
  | .w16 k, .w16 k' => k'.params = k.params ∧ k'.table = k.table
  | .w32 k, .w32 k' => k'.params = k.params ∧ k'.table = k.table
  | .w16 _, .w32 _ => False
  | .w32 _, .w16 _ => False

/-- What a command can end in: an error that changes STATUS only, one of five changes followed by success, or the raw tier's
fault. -/
inductive CommandOutcome (i : Instr) (s : State) : Outcome → Prop where
  | badctx (c : Nat) (hc : contextNumber i = some c) (h : s.cfg.numCtx ≤ c) : CommandOutcome i s (raiseErr .badctx s)
  | nocfg (c : Nat) (hc : contextNumber i = some c) (hi : constructs i = false) (h : c < s.cfg.numCtx)
      (hk : s.context c = none) : CommandOutcome i s (raiseErr .nocfg s)
  | bounds (hi : constructs i = false) : CommandOutcome i s (raiseErr .bounds s)
  | construct (hi : constructs i = true) : CommandOutcome i s (raiseErr .construct s)
  | nothing (hv : returnsValue i = false) : CommandOutcome i s (complete s)
  | construction (c : Nat) (k : Crc) (hc : contextNumber i = some c) (hi : constructs i = true) (h : c < s.cfg.numCtx) :
      CommandOutcome i s (complete (s.setContext c k))
  | register (c : Nat) (k k' : Crc) (hi : i = .crcInit c ∨ i = .crcUpd c) (h : c < s.cfg.numCtx)
      (hk : s.context c = some k) (same : SameButReg k k') : CommandOutcome i s (complete (s.setContext c k'))
  | bytes (off : Nat) (bs : List Byte) (hv : returnsValue i = false) (h : off + bs.length ≤ s.cfg.bufSize) :
      CommandOutcome i s (complete (s.bufWrite off bs))
  | digest (off : Nat) (bs : List Byte) (v : DWord) (hv : returnsValue i = true) (h : off + bs.length ≤ s.cfg.bufSize) :
      CommandOutcome i s (complete ((s.bufWrite off bs).setResult v))
  | value (v : DWord) (hv : returnsValue i = true) : CommandOutcome i s (complete (s.setResult v))
  | rawFault (op : CodecOp) (n : Nat) (hf : codecForm i = some (op, n, .raw)) (h : s.cfg.bufSize < s.arg1.toNat + n) :
      CommandOutcome i s (.fault (.undefinedBehaviour (.rawOutOfBounds op s.arg1.toNat)))

/-! ## Lengths -/

@[simp] theorem leBytes_length {w : Nat} (v : BitVec w) : (leBytes v).length = w / 8 := by simp [leBytes]
@[simp] theorem beBytes_length {w : Nat} (v : BitVec w) : (beBytes v).length = w / 8 := by simp [beBytes]
@[simp] theorem orderedBytes_length {w : Nat} (e : Endian) (v : BitVec w) : (orderedBytes e v).length = w / 8 := by
  cases e <;> simp [orderedBytes]
@[simp] theorem encodedBytes_length {w : Nat} (native e : Endian) (t : Tier) (v : BitVec w) :
    (encodedBytes native e t v).length = w / 8 := by
  cases t
  · simp [encodedBytes]
  · simp only [encodedBytes]; split <;> simp
@[simp] theorem Crc.digest_length (k : Crc) : k.digest.length = k.bytes := by cases k <;> simp [Crc.digest, Crc.bytes]

theorem Crc.init_sameButReg (k : Crc) : SameButReg k k.init := by cases k <;> simp [Crc.init, SameButReg]
theorem Crc.update_sameButReg (k : Crc) (bs : List Byte) : SameButReg k (k.update bs) := by
  cases k <;> simp [Crc.update, SameButReg]

/-! ## One lemma per shared meaning -/

theorem encodeValue_outcome (i : Instr) (op : CodecOp) (w : Nat) (e : Endian) (t : Tier) (s : State)
    (hv : returnsValue i = false) (hc : constructs i = false) (hf : codecForm i = some (op, w / 8, t)) :
    CommandOutcome i s (encodeValue op w e t s) := by
  unfold encodeValue
  rcases codecBounds_cases op t s.offset1 (w / 8) s
    (complete (s.bufWrite s.offset1 (encodedBytes s.cfg.nativeEndian e t (trunc w s.arg0)))) with
    ⟨h, ho⟩ | ⟨_, _, ho⟩ | ⟨h, ht, ho⟩
  · rw [ho]; exact .bytes _ _ hv (by simpa using h)
  · rw [ho]; exact .bounds hc
  · rw [ho]; exact .rawFault op (w / 8) (ht ▸ hf) h

theorem decodeValue_outcome (i : Instr) (op : CodecOp) (w : Nat) (widen : BitVec w → DWord) (e : Endian) (t : Tier)
    (s : State) (hv : returnsValue i = true) (hc : constructs i = false) (hf : codecForm i = some (op, w / 8, t)) :
    CommandOutcome i s (decodeValue op w widen e t s) := by
  unfold decodeValue
  rcases codecBounds_cases op t s.offset1 (w / 8) s
    (complete (s.setResult (widen (decodedValue w s.cfg.nativeEndian e t (s.bufRead s.offset1 (w / 8)))))) with
    ⟨_, ho⟩ | ⟨_, _, ho⟩ | ⟨h, ht, ho⟩
  · rw [ho]; exact .value _ hv
  · rw [ho]; exact .bounds hc
  · rw [ho]; exact .rawFault op (w / 8) (ht ▸ hf) h

/-- A construction command's checks and its replacement of the context. -/
theorem checkIndex_outcome (i : Instr) (c : Nat) (s : State) (body : Outcome) (hc : contextNumber i = some c)
    (h : c < s.cfg.numCtx → CommandOutcome i s body) : CommandOutcome i s (checkIndex c s body) := by
  rcases checkIndex_cases c s body with ⟨hlt, ho⟩ | ⟨hge, ho⟩
  · rw [ho]; exact h hlt
  · rw [ho]; exact .badctx c hc hge

theorem useContext_outcome (i : Instr) (c : Nat) (s : State) (body : Crc → Outcome) (hc : contextNumber i = some c)
    (hi : constructs i = false)
    (h : ∀ k, c < s.cfg.numCtx → s.context c = some k → CommandOutcome i s (body k)) :
    CommandOutcome i s (useContext c s body) := by
  rcases useContext_cases c s body with ⟨k, hlt, hk, ho⟩ | ⟨hlt, hk, ho⟩ | ⟨hge, ho⟩
  · rw [ho]; exact h k hlt hk
  · rw [ho]; exact .nocfg c hc hi hlt hk
  · rw [ho]; exact .badctx c hc hge

theorem checkBounds_outcome (i : Instr) (off n : Nat) (s : State) (body : Outcome) (hi : constructs i = false)
    (h : off + n ≤ s.cfg.bufSize → CommandOutcome i s body) :
    CommandOutcome i s (checkBounds off n .bounds s body) := by
  rcases checkBounds_cases off n .bounds s body with ⟨hin, ho⟩ | ⟨_, ho⟩
  · rw [ho]; exact h hin
  · rw [ho]; exact .bounds hi

theorem execCrcCfgt_outcome (c : Nat) (width : CrcWidth) (ri ro bs : Bool) (s : State) :
    CommandOutcome (.crcCfgt c width ri ro bs) s (execCrcCfgt c width ri ro bs s) := by
  refine checkIndex_outcome _ c s _ rfl fun hlt => ?_
  cases width with
  | w16 =>
    rcases checkBounds_cases s.offset3 512 .construct s _ with ⟨_, ho⟩ | ⟨_, ho⟩
    · rw [ho]; exact .construction c _ rfl rfl hlt
    · rw [ho]; exact .construct rfl
  | w32 =>
    rcases checkBounds_cases s.offset3 1024 .construct s _ with ⟨_, ho⟩ | ⟨_, ho⟩
    · rw [ho]; exact .construction c _ rfl rfl hlt
    · rw [ho]; exact .construct rfl

theorem execCrcRd_outcome (c : Nat) (sel : Selector) (s : State) :
    CommandOutcome (.crcRd c sel) s (execCrcRd c sel s) := by
  refine useContext_outcome _ c s _ rfl rfl fun k _ _ => ?_
  cases k.read sel s.index0 with
  | none => exact .bounds rfl
  | some v => exact .value v rfl

/-- Everything a command can do. -/
theorem exec_outcome (i : Instr) (s : State) : CommandOutcome i s (exec i s) := by
  cases i with
  | nop => exact .nothing rfl
  | crcCfg c width ri ro bs =>
    refine checkIndex_outcome _ c s _ rfl fun hlt => ?_
    cases width <;> exact .construction c _ rfl rfl hlt
  | crcCfgt c width ri ro bs => exact execCrcCfgt_outcome c width ri ro bs s
  | crcVar c v => exact checkIndex_outcome _ c s _ rfl fun hlt => .construction c _ rfl rfl hlt
  | crcInit c =>
    exact useContext_outcome _ c s _ rfl rfl fun k hlt hk => .register c k _ (.inl rfl) hlt hk k.init_sameButReg
  | crcUpd c =>
    exact useContext_outcome _ c s _ rfl rfl fun k hlt hk =>
      checkBounds_outcome _ _ _ s _ rfl fun _ => .register c k _ (.inr rfl) hlt hk (k.update_sameButReg _)
  | crcFin c =>
    exact useContext_outcome _ c s _ rfl rfl fun k _ _ =>
      checkBounds_outcome _ _ _ s _ rfl fun hin => .digest _ _ _ rfl (by simpa using hin)
  | crcCmp c =>
    exact useContext_outcome _ c s _ rfl rfl fun k _ _ => checkBounds_outcome _ _ _ s _ rfl fun _ => .value _ rfl
  | crcRd c sel => exact execCrcRd_outcome c sel s
  | crcRfl width => cases width <;> exact .value _ rfl
  | encI16 e t => exact encodeValue_outcome _ _ 16 e t s rfl rfl rfl
  | encI32 e t => exact encodeValue_outcome _ _ 32 e t s rfl rfl rfl
  | encI64 e t => exact encodeValue_outcome _ _ 64 e t s rfl rfl rfl
  | encF32 e t => exact encodeValue_outcome _ _ 32 e t s rfl rfl rfl
  | encF64 e t => exact encodeValue_outcome _ _ 64 e t s rfl rfl rfl
  | decI16 e t => exact decodeValue_outcome _ _ 16 _ e t s rfl rfl rfl
  | decI32 e t => exact decodeValue_outcome _ _ 32 _ e t s rfl rfl rfl
  | decI64 e t => exact decodeValue_outcome (.decI64 e t) .decI64 64 (fun v => v) e t s rfl rfl rfl
  | decF32 e t => exact decodeValue_outcome _ _ 32 _ e t s rfl rfl rfl
  | decF64 e t => exact decodeValue_outcome (.decF64 e t) .decF64 64 (fun v => v) e t s rfl rfl rfl

/-! ## Steps -/

/-- What a step can do: wait, accept a read, accept or refuse a write, issue a command, or take the hardware reset. -/
theorem step_cases (s : State) :
    (s.pending = [] ∧ step s = .next s) ∨
    (∃ op ops, s.pending = op :: ops ∧ step s = access op { s with pending := ops }) := by
  cases h : s.pending with
  | nil => exact .inl ⟨rfl, by simp [step, h]⟩
  | cons op ops => exact .inr ⟨op, ops, rfl, by simp [step, h]⟩

end Sys2Proof.Machine
end

