-- ==== Sys2Proof/Laws/Bits.lean ====
section
/-! SUPPORT. The byte primitives: what each byte of a byte list is, a value's bytes give it back, both tiers of the codec use the
same bytes whatever NATIVE_ENDIAN is, and reflection and byte swap are involutions. -/
namespace Sys2Proof.Machine

/-! ## Byte lists -/

theorem leBytes_getElem {w : Nat} (v : BitVec w) (k : Nat) (h : k < (leBytes v).length) :
    (leBytes v)[k] = v.extractLsb' (8 * k) 8 := by simp [leBytes]

theorem beBytes_getElem {w : Nat} (v : BitVec w) (k : Nat) (h : k < (beBytes v).length) :
    (beBytes v)[k] = v.extractLsb' (8 * (w / 8 - 1 - k)) 8 := by simp [beBytes, leBytes]

/-- Bit j of the value of a byte list is bit j % 8 of its byte j / 8. -/
theorem fromLE_getLsbD (w : Nat) (bs : List Byte) (j : Nat) :
    (fromLE w bs).getLsbD j = (decide (j < w) && (bs.getD (j / 8) 0).getLsbD (j % 8)) := by
  induction bs generalizing j with
  | nil => simp [fromLE]
  | cons b bs ih =>
    simp only [fromLE, BitVec.getLsbD_or, BitVec.getLsbD_setWidth, BitVec.getLsbD_shiftLeft, ih]
    by_cases hj : j < 8
    · simp [hj, Nat.div_eq_of_lt hj, Nat.mod_eq_of_lt hj]
    · have hd : j / 8 = (j - 8) / 8 + 1 := by omega
      have hm : j % 8 = (j - 8) % 8 := by omega
      have hb : b.getLsbD j = false := BitVec.getLsbD_of_ge b j (by omega)
      rw [hd, hm]
      by_cases hw : j < w
      · simp [hj, hb, hw, show j - 8 < w by omega]
      · simp [hw, hb]

/-- `from_le(le_bytes_N(v)) = v` (00_scope.md R14). -/
theorem fromLE_leBytes {w : Nat} (hw : w % 8 = 0) (v : BitVec w) : fromLE w (leBytes v) = v := by
  apply BitVec.eq_of_getLsbD_eq
  intro j hj
  rw [fromLE_getLsbD]
  have hlt : j / 8 < w / 8 := by omega
  have hmod : j % 8 < 8 := Nat.mod_lt _ (by decide)
  simp [leBytes, hj, hlt, hmod, List.getD, Nat.div_add_mod]

theorem fromBE_beBytes {w : Nat} (hw : w % 8 = 0) (v : BitVec w) : fromBE w (beBytes v) = v := by
  simp [fromBE, beBytes, fromLE_leBytes hw]

theorem leBytes_fromLE {w : Nat} (bs : List Byte) (h : bs.length * 8 = w) : leBytes (fromLE w bs) = bs := by
  subst h
  apply List.ext_getElem
  · simp
  · intro k hk hk'
    rw [leBytes_getElem]
    apply BitVec.eq_of_getLsbD_eq
    intro j hj
    rw [BitVec.getLsbD_extractLsb', fromLE_getLsbD]
    have hd : (8 * k + j) / 8 = k := by omega
    have hm : (8 * k + j) % 8 = j := by omega
    simp [hj, hd, hm, hk', show 8 * k + j < bs.length * 8 by omega]

/-! ## Byte swap and reflection -/

theorem leBytes_bswap {w : Nat} (hw : w % 8 = 0) (v : BitVec w) : leBytes (bswap v) = beBytes v :=
  leBytes_fromLE _ (by simp; omega)

theorem beBytes_bswap {w : Nat} (hw : w % 8 = 0) (v : BitVec w) : beBytes (bswap v) = leBytes v := by
  rw [beBytes, leBytes_bswap hw, beBytes, List.reverse_reverse]

theorem bswap_bswap {w : Nat} (hw : w % 8 = 0) (v : BitVec w) : bswap (bswap v) = v := by
  rw [bswap, leBytes_bswap hw, fromBE_beBytes hw]

theorem bswap_fromLE (w : Nat) (bs : List Byte) (h : bs.length * 8 = w) : bswap (fromLE w bs) = fromBE w bs := by
  rw [bswap, leBytes_fromLE bs h]

theorem bswap_fromBE (w : Nat) (bs : List Byte) (h : bs.length * 8 = w) : bswap (fromBE w bs) = fromLE w bs := by
  rw [fromBE, bswap_fromLE w _ (by simpa using h), fromBE, List.reverse_reverse]

theorem reflect_getLsbD {w : Nat} (v : BitVec w) (i : Nat) (h : i < w) :
    (reflect v).getLsbD i = v.getLsbD (w - 1 - i) := by
  rw [reflect, BitVec.getLsbD_reverse, BitVec.getMsbD_eq_getLsbD]
  simp [h]

/-! ## Tables -/

/-- Entry i of a table built from a function. -/
theorem tableAt_tableOf {w : Nat} (f : Byte → BitVec w) (i : Byte) : tableAt (tableOf f) i = f i := by
  simp [tableAt, tableOf]

theorem tableOf_getElem {w : Nat} (f : Byte → BitVec w) (j : Fin 256) : (tableOf f)[j] = f (BitVec.ofNat 8 j) := by
  simp [tableOf]

/-! ## The codec's two tiers (41_codec.md R145, R146) -/

/-- Both tiers write the bytes of R143, whatever NATIVE_ENDIAN is. -/
theorem encodedBytes_eq {w : Nat} (hw : w % 8 = 0) (native e : Endian) (t : Tier) (v : BitVec w) :
    encodedBytes native e t v = orderedBytes e v := by
  cases t
  · rfl
  · cases native <;> cases e <;> simp [encodedBytes, orderedBytes, leBytes_bswap hw, beBytes_bswap hw]

/-- Both tiers read the value of R143, whatever NATIVE_ENDIAN is. -/
theorem decodedValue_eq (w : Nat) (native e : Endian) (t : Tier) (bs : List Byte) (h : bs.length * 8 = w) :
    decodedValue w native e t bs = fromOrdered w e bs := by
  cases t
  · rfl
  · cases native <;> cases e <;> simp [decodedValue, fromOrdered, bswap_fromLE w bs h, bswap_fromBE w bs h]

/-- Decoding the bytes of a value gives it back. -/
theorem fromOrdered_orderedBytes {w : Nat} (hw : w % 8 = 0) (e : Endian) (v : BitVec w) :
    fromOrdered w e (orderedBytes e v) = v := by
  cases e
  · exact fromLE_leBytes hw v
  · exact fromBE_beBytes hw v

/-- Byte j of a value's bytes in an order. -/
theorem orderedBytes_getElem {w : Nat} (e : Endian) (v : BitVec w) (j : Nat) (h : j < (orderedBytes e v).length) :
    (orderedBytes e v)[j] = v.extractLsb' (8 * (match e with | .little => j | .big => w / 8 - 1 - j)) 8 := by
  cases e
  · exact leBytes_getElem v j h
  · exact beBytes_getElem v j h

end Sys2Proof.Machine
end

