-- ==== Sys2Proof/Laws/Host.lean ====
section
/-! SUPPORT. Everything one host access can do, said once (`access_outcome`), and what issuing a word can do (`issue_cases`). -/
namespace Sys2Proof.Machine

/-- What one pending access can end in. -/
inductive AccessOutcome (s : State) : Outcome → Prop where
  /-- A read, an ignored write or a bus error: the answer, and nothing else. -/
  | answered (r : Reply) : AccessOutcome s (.next (s.answer r))
  /-- A write to a half of an ARG register. -/
  | args (a0 a1 a2 a3 : DWord) :
      AccessOutcome s (.next (State.answer { s with arg0 := a0, arg1 := a1, arg2 := a2, arg3 := a3 } .done))
  | status (v : Word) : AccessOutcome s (.next ((s.writeStatus v).answer .done))
  | softReset : AccessOutcome s (.next (s.softReset.answer .done))
  | byte (off : Nat) (v : Byte) (h : off < s.cfg.bufSize) :
      AccessOutcome s (.next ((s.bufWrite off [v]).answer .done))
  | issued (w : Word) : AccessOutcome s (mapNext (fun t => t.answer .done) (issue w s))
  | hardReset : AccessOutcome s (.next s.hardReset)

/-- Issuing a word executes its command or ends with ILLEGAL (10_state.md R31; 30_encoding.md R91). -/
theorem issue_cases (w : Word) (s : State) :
    (∃ i, decode w = .command i ∧ issue w s = exec i { s with lastcmd := w }) ∨
    (∃ why, decode w = .illegal why ∧ issue w s = raiseErr .illegal { s with lastcmd := w }) := by
  unfold issue
  cases h : decode w with
  | command i => exact .inl ⟨i, rfl, rfl⟩
  | illegal why => exact .inr ⟨why, rfl, rfl⟩

theorem writeReg_outcome (s : State) (r : WindowReg) (v : Word) :
    AccessOutcome s (mapNext (fun t => t.answer .done) (writeReg s r v)) := by
  cases r with
  | id => exact .answered .done
  | caps => exact .answered .done
  | bufsz => exact .answered .done
  | ctrl =>
    simp only [writeReg, mapNext]
    split
    · exact .softReset
    · exact .answered .done
  | status => exact .status v
  | cmd => exact .issued v
  | arg0Lo => exact .args _ _ _ _
  | arg0Hi => exact .args _ _ _ _
  | arg1Lo => exact .args _ _ _ _
  | arg1Hi => exact .args _ _ _ _
  | arg2Lo => exact .args _ _ _ _
  | arg2Hi => exact .args _ _ _ _
  | arg3Lo => exact .args _ _ _ _
  | arg3Hi => exact .args _ _ _ _
  | resultLo => exact .answered .done
  | resultHi => exact .answered .done
  | reserved => exact .answered .done

/-- Everything one pending access can do. -/
theorem access_outcome (op : HostOp) (s : State) : AccessOutcome s (access op s) := by
  cases op with
  | rd size a => exact .answered _
  | wr8 a v =>
    simp only [access, busError, writeBuf]
    split
    · split
      · exact .byte _ v ‹_›
      · exact .answered .done
    · exact .answered _
  | wr16 a v => exact .answered _
  | wr32 a v =>
    simp only [access, busError]
    split
    · exact writeReg_outcome s (windowReg a) v
    · exact .answered _
  | wr64 a v => exact .answered _
  | hwReset => exact .hardReset

end Sys2Proof.Machine
end

