-- ==== Sys2Proof/Laws/PerInstr.lean ====
section
/-! SUPPORT. Statements for all commands, one lemma per constructor: the word of a command is in its own row of the opcode map
(30_encoding.md R86, R89). -/
namespace Sys2Proof.Laws

/-- The row of a command (30_encoding.md R89). -/
def rowOf : Instr → Row
  | .nop => ⟨.nop, .n, 0x00⟩
  | .crcCfg _ _ _ _ _ => ⟨.crcCfg, .k, 0x01⟩
  | .crcCfgt _ _ _ _ _ => ⟨.crcCfgt, .k, 0x02⟩
  | .crcVar _ _ => ⟨.crcVar, .v, 0x03⟩
  | .crcInit _ => ⟨.crcInit, .c, 0x04⟩
  | .crcUpd _ => ⟨.crcUpd, .c, 0x05⟩
  | .crcFin _ => ⟨.crcFin, .c, 0x06⟩
  | .crcCmp _ => ⟨.crcCmp, .c, 0x07⟩
  | .crcRd _ _ => ⟨.crcRd, .s, 0x08⟩
  | .crcRfl _ => ⟨.crcRfl, .r, 0x09⟩
  | .encI16 _ _ => ⟨.encI16, .b, 0x10⟩
  | .encI32 _ _ => ⟨.encI32, .b, 0x11⟩
  | .encI64 _ _ => ⟨.encI64, .b, 0x12⟩
  | .encF32 _ _ => ⟨.encF32, .b, 0x13⟩
  | .encF64 _ _ => ⟨.encF64, .b, 0x14⟩
  | .decI16 _ _ => ⟨.decI16, .b, 0x18⟩
  | .decI32 _ _ => ⟨.decI32, .b, 0x19⟩
  | .decI64 _ _ => ⟨.decI64, .b, 0x1A⟩
  | .decF32 _ _ => ⟨.decF32, .b, 0x1B⟩
  | .decF64 _ _ => ⟨.decF64, .b, 0x1C⟩

/-- The CTX field occupies bits 11:8 and nothing else. -/
theorem placeNibble_ctx_mask (n : BitVec 4) : placeNibble n 8 &&& ~~~0xF00 = 0 := by revert n; decide

/-- The command's word has the fixed bits of its row. -/
def InItsRow.Statement (i : Instr) : Prop := rowOf i ∈ opcodeTable ∧ (rowOf i).accepts (encode i) = true

namespace InItsRow

theorem ctxWord (op : Word) (hop : op &&& 0xFFFFF0FF = op) (c : Nat) :
    (op ||| placeCtx c) &&& 0xFFFFF0FF = op := by
  have h : placeCtx c &&& 0xFFFFF0FF = 0 := placeNibble_ctx_mask _
  rw [BitVec.and_or_distrib_right, hop, h]; exact BitVec.or_zero

theorem kFields (n : BitVec 4) (w : CrcWidth) (ri ro bs : Bool) :
    (placeNibble n 8 ||| placeBit w.bit 12 ||| placeBit ri 13 ||| placeBit ro 14 ||| placeBit bs 15) &&& 0xFFFF00FF = 0 := by
  revert n ri ro bs; cases w <;> decide

theorem kWord (op : Word) (hop : op &&& 0xFFFF00FF = op) (c : Nat) (w : CrcWidth) (ri ro bs : Bool) :
    (op ||| placeK c w ri ro bs) &&& 0xFFFF00FF = op := by
  have h : placeK c w ri ro bs &&& 0xFFFF00FF = 0 := kFields _ w ri ro bs
  rw [BitVec.and_or_distrib_right, hop, h]; exact BitVec.or_zero

theorem vWord (op : Word) (hop : op &&& 0xFFF0F0FF = op) (c : Nat) (n : BitVec 4) :
    (op ||| placeCtx c ||| placeNibble n 16) &&& 0xFFF0F0FF = op := by
  have h1 : placeCtx c &&& 0xFFF0F0FF = 0 := by unfold placeCtx; generalize BitVec.ofNat 4 c = m; revert m; decide
  have h2 : placeNibble n 16 &&& 0xFFF0F0FF = 0 := by revert n; decide
  rw [BitVec.and_or_distrib_right, BitVec.and_or_distrib_right, hop, h1, h2]
  simp

theorem nop : Statement .nop := by unfold Statement; decide
theorem crcCfg (c : Nat) (w : CrcWidth) (ri ro bs : Bool) : Statement (.crcCfg c w ri ro bs) :=
  ⟨by simp [rowOf, opcodeTable], decide_eq_true (kWord 0x01 (by decide) c w ri ro bs)⟩
theorem crcCfgt (c : Nat) (w : CrcWidth) (ri ro bs : Bool) : Statement (.crcCfgt c w ri ro bs) :=
  ⟨by simp [rowOf, opcodeTable], decide_eq_true (kWord 0x02 (by decide) c w ri ro bs)⟩
theorem crcVar (c : Nat) (v : Variant) : Statement (.crcVar c v) :=
  ⟨by simp [rowOf, opcodeTable], decide_eq_true (vWord 0x03 (by decide) c v.vid)⟩
theorem crcInit (c : Nat) : Statement (.crcInit c) :=
  ⟨by simp [rowOf, opcodeTable], decide_eq_true (ctxWord 0x04 (by decide) c)⟩
theorem crcUpd (c : Nat) : Statement (.crcUpd c) :=
  ⟨by simp [rowOf, opcodeTable], decide_eq_true (ctxWord 0x05 (by decide) c)⟩
theorem crcFin (c : Nat) : Statement (.crcFin c) :=
  ⟨by simp [rowOf, opcodeTable], decide_eq_true (ctxWord 0x06 (by decide) c)⟩
theorem crcCmp (c : Nat) : Statement (.crcCmp c) :=
  ⟨by simp [rowOf, opcodeTable], decide_eq_true (ctxWord 0x07 (by decide) c)⟩
theorem crcRd (c : Nat) (sel : Selector) : Statement (.crcRd c sel) :=
  ⟨by simp [rowOf, opcodeTable], decide_eq_true (vWord 0x08 (by decide) c sel.sel)⟩
theorem crcRfl (w : CrcWidth) : Statement (.crcRfl w) := by unfold Statement; cases w <;> decide
theorem encI16 (e : Endian) (t : Tier) : Statement (.encI16 e t) := by unfold Statement; cases e <;> cases t <;> decide
theorem encI32 (e : Endian) (t : Tier) : Statement (.encI32 e t) := by unfold Statement; cases e <;> cases t <;> decide
theorem encI64 (e : Endian) (t : Tier) : Statement (.encI64 e t) := by unfold Statement; cases e <;> cases t <;> decide
theorem encF32 (e : Endian) (t : Tier) : Statement (.encF32 e t) := by unfold Statement; cases e <;> cases t <;> decide
theorem encF64 (e : Endian) (t : Tier) : Statement (.encF64 e t) := by unfold Statement; cases e <;> cases t <;> decide
theorem decI16 (e : Endian) (t : Tier) : Statement (.decI16 e t) := by unfold Statement; cases e <;> cases t <;> decide
theorem decI32 (e : Endian) (t : Tier) : Statement (.decI32 e t) := by unfold Statement; cases e <;> cases t <;> decide
theorem decI64 (e : Endian) (t : Tier) : Statement (.decI64 e t) := by unfold Statement; cases e <;> cases t <;> decide
theorem decF32 (e : Endian) (t : Tier) : Statement (.decF32 e t) := by unfold Statement; cases e <;> cases t <;> decide
theorem decF64 (e : Endian) (t : Tier) : Statement (.decF64 e t) := by unfold Statement; cases e <;> cases t <;> decide

end InItsRow

end Sys2Proof.Laws
end

