-- ==== Sys2Proof/Tests/Slice0.lean ====
section
/-! SUPPORT. The model's own tests: ill-formed commands are refused, words written out from 30_encoding.md R86 and R89 decode
right, one step of each command gives what 95_test_vectors.md or the command's rule says, and every obligation with hypotheses
has a witness that meets them. -/
namespace Sys2Proof

open Machine

/-! ## WellFormed: each check refuses a CTX that does not fit four bits (30_encoding.md R82) -/

theorem test_illFormed_crcCfg : (Instr.crcCfg 16 .w16 true true false).wellFormed = false := by decide
theorem test_illFormed_crcCfgt : (Instr.crcCfgt 16 .w16 true true false).wellFormed = false := by decide
theorem test_illFormed_crcVar : (Instr.crcVar 16 .ibm).wellFormed = false := by decide
theorem test_illFormed_crcInit : (Instr.crcInit 16).wellFormed = false := by decide
theorem test_illFormed_crcUpd : (Instr.crcUpd 16).wellFormed = false := by decide
theorem test_illFormed_crcFin : (Instr.crcFin 16).wellFormed = false := by decide
theorem test_illFormed_crcCmp : (Instr.crcCmp 16).wellFormed = false := by decide
theorem test_illFormed_crcRd : (Instr.crcRd 16 .poly).wellFormed = false := by decide
theorem test_wellFormed_ctx15 : (Instr.crcRd 15 .poly).wellFormed = true := by decide

/-! ## Decoding: every constructor, from the bit patterns of R86 with the opcodes of R89 -/

theorem test_decode_N : decode 0b0000_0000_0000_0000_0000_0000_0000_0000 = .command .nop := by decide

/-- Format C: `cccc` = 1010. -/
theorem test_decode_C :
    decode 0b0000_0000_0000_0000_0000_1010_0000_0100 = .command (.crcInit 10) ∧
    decode 0b0000_0000_0000_0000_0000_1010_0000_0101 = .command (.crcUpd 10) ∧
    decode 0b0000_0000_0000_0000_0000_1010_0000_0110 = .command (.crcFin 10) ∧
    decode 0b0000_0000_0000_0000_0000_1010_0000_0111 = .command (.crcCmp 10) := by decide

/-- Format K: one flag of `borw` at a time, `cccc` = 0001. -/
theorem test_decode_K :
    decode 0b0000_0000_0000_0000_1000_0001_0000_0001 = .command (.crcCfg 1 .w16 false false true) ∧
    decode 0b0000_0000_0000_0000_0100_0001_0000_0001 = .command (.crcCfg 1 .w16 false true false) ∧
    decode 0b0000_0000_0000_0000_0010_0001_0000_0010 = .command (.crcCfgt 1 .w16 true false false) ∧
    decode 0b0000_0000_0000_0000_0001_0001_0000_0010 = .command (.crcCfgt 1 .w32 false false false) := by decide

/-- Format V: the ten VIDs in the order of R85, `cccc` = 0110. -/
theorem test_decode_V :
    [0x00000603, 0x00010603, 0x00020603, 0x00030603, 0x00040603, 0x00050603, 0x00060603, 0x00070603, 0x00080603,
      0x00090603].map decode =
    [Variant.ibm, .ccittFalse, .ccittXmodem, .ccittAug, .ccittKermit, .ccittKermitLsb, .ccittMcrf4xx, .crc32Standard,
      .crc32q, .crc32Posix].map (fun v => .command (.crcVar 6 v)) := by decide

/-- Format S: the six SELs in the order of R85, `cccc` = 1111. -/
theorem test_decode_S :
    [0x00000F08, 0x00010F08, 0x00020F08, 0x00030F08, 0x00040F08, 0x00050F08].map decode =
    [Selector.poly, .seed, .xorout, .flags, .reg, .table].map (fun sel => .command (.crcRd 15 sel)) := by decide

theorem test_decode_R :
    decode 0b0000_0000_0000_0000_0000_0000_0000_1001 = .command (.crcRfl .w16) ∧
    decode 0b0000_0000_0000_0000_0001_0000_0000_1001 = .command (.crcRfl .w32) := by decide

/-- Format B, the encode commands: `te` = 00, 01, 10, 11, 01. -/
theorem test_decode_B_encode :
    decode 0b0000_0000_0000_0000_0000_0000_0001_0000 = .command (.encI16 .little .safe) ∧
    decode 0b0000_0000_0000_0000_0001_0000_0001_0001 = .command (.encI32 .big .safe) ∧
    decode 0b0000_0000_0000_0000_0010_0000_0001_0010 = .command (.encI64 .little .raw) ∧
    decode 0b0000_0000_0000_0000_0011_0000_0001_0011 = .command (.encF32 .big .raw) ∧
    decode 0b0000_0000_0000_0000_0001_0000_0001_0100 = .command (.encF64 .big .safe) := by decide

/-- Format B, the decode commands: `te` = 00, 01, 10, 11, 10. -/
theorem test_decode_B_decode :
    decode 0b0000_0000_0000_0000_0000_0000_0001_1000 = .command (.decI16 .little .safe) ∧
    decode 0b0000_0000_0000_0000_0001_0000_0001_1001 = .command (.decI32 .big .safe) ∧
    decode 0b0000_0000_0000_0000_0010_0000_0001_1010 = .command (.decI64 .little .raw) ∧
    decode 0b0000_0000_0000_0000_0011_0000_0001_1011 = .command (.decF32 .big .raw) ∧
    decode 0b0000_0000_0000_0000_0010_0000_0001_1100 = .command (.decF64 .little .raw) := by decide

/-- The illegal words of 95_test_vectors.md section 2.6, each rejected under its name. -/
theorem test_decode_unassigned :
    [0x0000000A, 0x0000000F, 0x00000015, 0x0000001D, 0x000000FF, 0xFFFFFFFF].map decode =
    [0x0A, 0x0F, 0x15, 0x1D, 0xFF, 0xFF].map (fun op => .illegal (.unassignedOp op)) := by decide

theorem test_decode_reservedBits :
    [0x00000100, 0x00010000, 0x00010001, 0x00100004, 0x80000004, 0x00001004, 0x00001003, 0x00002009, 0x00000109,
      0x00004010, 0x00000110].map decode =
    [0x00, 0x00, 0x01, 0x04, 0x04, 0x04, 0x03, 0x09, 0x09, 0x10, 0x10].map (fun op => .illegal (.reservedBitSet op)) := by
  decide

theorem test_decode_reservedFields :
    decode 0x000A0003 = .illegal (.reservedVid 10) ∧ decode 0x000F0003 = .illegal (.reservedVid 15) ∧
    decode 0x00060008 = .illegal (.reservedSel 6) := by decide

theorem test_decodeTableWord :
    decodeTableWord 32 0x00007101 = some (.crcCfg 1 .w32 true true false) ∧ decodeTableWord 32 0x0A = none := by decide

/-- The written forms of 30_encoding.md R93 and R94. -/
theorem test_asmText :
    asmText (.crcCfg 1 .w32 true true false) = "crc.cfg c1, 32, 1, 1, 0" ∧
    asmText (.crcVar 3 .ccittKermitLsb) = "crc.var c3, CCITT-KERMIT-LSB" ∧
    asmText (.encI64 .big .raw) = "enc.i64.be.raw" ∧ asmText (.decI16 .big .safe) = "dec.i16.be" := by decide

/-! ## One step of each command -/

/-- The state of 95_test_vectors.md section 2.5: BUF[0..9] = "1234567890" and ctx[0] = CRC32-STANDARD. -/
def testState : State :=
  { State.reset with
    ctx := [some (variantRow .crc32Standard).construct, none, none, none]
    buf := [(0, 0x31), (1, 0x32), (2, 0x33), (3, 0x34), (4, 0x35), (5, 0x36), (6, 0x37), (7, 0x38), (8, 0x39), (9, 0x30)] }

/-- The state after the one step in which the host writes w to CMD. -/
def testRun (w : Nat) (s : State) : Option State :=
  match step (s.withFetchWord 32 w) with
  | .next t => some t
  | .fault _ => none
  | .refused _ => none

/-- STATUS and RESULT after that step. -/
def testSees (w : Nat) (s : State) : Option (Word × DWord) := (testRun w s).map fun t => (t.status.toWord, t.result)

/-- STATUS and some bytes of BUF after that step. -/
def testWrites (w : Nat) (s : State) (off n : Nat) : Option (Word × List (Option Byte)) :=
  (testRun w s).map fun t => (t.status.toWord, (List.range n).map fun k => t.buf.written (off + k))

/-- REG of a context after that step, zero-extended. -/
def testReg (w : Nat) (s : State) (c : Nat) : Option (Word × Option DWord) :=
  (testRun w s).map fun t => (t.status.toWord, (t.context c).bind (Crc.read .reg 0))

/-- testState with REG = 0x340BC6D9, as after UPD over "123456789". -/
def testFinal : State :=
  { testState with ctx := [some ((variantRow .crc32Standard).construct.update
      [0x31, 0x32, 0x33, 0x34, 0x35, 0x36, 0x37, 0x38, 0x39]), none, none, none] }

/-- R170: NOP after an ILLEGAL command. -/
theorem test_nop_keepsSticky :
    testSees 0x00000000 { testState with status := { err := .illegal, sticky := true } } = some (0x100, 0) := by decide

/-- V2. -/
theorem test_crcCfg_truncates :
    (testRun 0x00006101 { testState with arg0 := 0xFFFFFFFFFFFF8005, arg1 := 0x12345FFFF, arg2 := 0x10000 }).bind
      (fun t => (t.context 1).map fun k => [k.read .poly 0, k.read .seed 0, k.read .xorout 0, k.read .flags 0,
        k.read .reg 0, k.read .table 1]) =
    some [some 0x8005, some 0xFFFF, some 0, some 6, some 0xFFFF, some 0xC0C1] := by decide +kernel

/-- V4. -/
theorem test_crcCfg_badctx : testSees 0x00006401 testState = some (0x102, 0) := by decide

/-- Section 2.5, CRC.CFGT: the first entries of the image, little-endian, at an unaligned offset. -/
theorem test_crcCfgt_littleEndian :
    (testRun 0x00007102 { testState with arg3 := 3, buf := [(7, 0x96), (8, 0x30), (9, 0x07), (10, 0x77)] }).bind
      (fun t => (t.context 1).bind fun k => k.read .table 1) = some 0x77073096 := by decide

/-- T3: the last legal offset for W = 32 is 0xC00. -/
theorem test_crcCfgt_construct : testSees 0x00007102 { testState with arg3 := 0xC01 } = some (0x105, 0) := by decide

/-- V6. -/
theorem test_crcVar_aug : testReg 0x00030203 testState 2 = some (0, some 0x1D0F) := by decide

/-- V8. -/
theorem test_crcVar_badctx : testSees 0x00080F03 testState = some (0x102, 0) := by decide

/-- V9. -/
theorem test_crcInit_seed : testReg 0x00000004 testFinal 0 = some (0, some 0xFFFFFFFF) := by decide

/-- V10. -/
theorem test_crcInit_nocfg : testSees 0x00000104 testState = some (0x103, 0) := by decide

/-- V11. -/
theorem test_crcUpd_check : testReg 0x00000005 { testState with arg1 := 9 } 0 = some (0, some 0x340BC6D9) := by decide +kernel

/-- V16: off + n is a natural and does not wrap. -/
theorem test_crcUpd_noWrap :
    testReg 0x00000005 { testState with arg1 := 0xFFFFFFFFFFFFFFFF } 0 = some (0x104, some 0xFFFFFFFF) := by decide

/-- V20: the last legal 32-bit digest offset. -/
theorem test_crcFin_bytes :
    testWrites 0x00000006 { testFinal with arg0 := 0xFFC } 0xFFC 4 =
      some (0, [some 0xCB, some 0xF4, some 0x39, some 0x26]) := by decide +kernel

/-- V21. -/
theorem test_crcFin_bounds : testSees 0x00000006 { testFinal with arg0 := 0xFFD } = some (0x104, 0) := by decide

/-- V27: the seed is truncated to 32 bits. -/
theorem test_crcCmp_check :
    testSees 0x00000007 { testState with arg1 := 9, arg2 := 0xFFFFFFFFFFFFFFFF } = some (0, 0xCBF43926) := by decide +kernel

/-- V26: chaining with F_inv of the first result. -/
theorem test_crcCmp_chain :
    testSees 0x00000007 { testState with arg0 := 5, arg1 := 5, arg2 := 0x340AC5E3 } = some (0, 0x261DAEE5) := by decide +kernel

/-- V32. -/
theorem test_crcRd_flags : testSees 0x00030008 testState = some (0, 0x7) := by decide

/-- V34 and V35. -/
theorem test_crcRd_table :
    testSees 0x00050008 { testState with arg0 := 255 } = some (0, 0x2D02EF8D) ∧
    testSees 0x00050008 { testState with arg0 := 256 } = some (0x104, 0) := by decide +kernel

/-- Section 2.1, with wide operands. -/
theorem test_crcRfl_truncates :
    testSees 0x00000009 { testState with arg0 := 0x0000000000018005 } = some (0, 0xA001) ∧
    testSees 0x00001009 { testState with arg0 := 0xFFFFFFFF04C11DB7 } = some (0, 0xEDB88320) := by decide +kernel

/-- Section 2.7, bounds corner cases: the last legal offset, then one byte further in both tiers. -/
theorem test_encI16_edges :
    testWrites 0x00000010 { testState with arg0 := 0x1122334455667788, arg1 := 0xFFE } 0xFFE 2 =
      some (0, [some 0x88, some 0x77]) ∧
    testSees 0x00000010 { testState with arg1 := 0xFFF } = some (0x104, 0) ∧
    step (State.withFetchWord { testState with arg1 := 0xFFF } 32 0x00002010) =
      .fault (.undefinedBehaviour (.rawOutOfBounds .encI16 0xFFF)) := ⟨by decide, by decide, rfl⟩

/-- Section 2.7: `enc.i16.be`, safe and raw. -/
theorem test_encI16_big :
    testWrites 0x00001010 { testState with arg0 := 0x1234567890ABCDEF } 0 2 = some (0, [some 0xCD, some 0xEF]) ∧
    testWrites 0x00003010 { testState with arg0 := 0x1234567890ABCDEF } 0 2 = some (0, [some 0xCD, some 0xEF]) := by decide

theorem test_encI32_big :
    testWrites 0x00001011 { testState with arg0 := 0x1122334455667788, arg1 := 0xFFC } 0xFFC 4 =
      some (0, [some 0x55, some 0x66, some 0x77, some 0x88]) := by decide

theorem test_encI64_little :
    testWrites 0x00000012 { testState with arg0 := 0x1122334455667788, arg1 := 0xFF8 } 0xFF8 8 =
      some (0, [some 0x88, some 0x77, some 0x66, some 0x55, some 0x44, some 0x33, some 0x22, some 0x11]) := by decide

theorem test_encF32_little :
    testWrites 0x00002013 { testState with arg0 := 0xFFFFFFFF3F800000 } 0 5 =
      some (0, [some 0x00, some 0x00, some 0x80, some 0x3F, some 0x35]) := by decide

theorem test_encF64_big :
    testWrites 0x00003014 { testState with arg0 := 0x3FF0000000000000 } 0 8 =
      some (0, [some 0x3F, some 0xF0, some 0, some 0, some 0, some 0, some 0, some 0]) := by decide

/-- Section 2.7: BUF[0..3] = EF CD AB 90. -/
theorem test_decI16_signed :
    testSees 0x00000018 { testState with buf := [(0, 0xEF), (1, 0xCD)] } = some (0, 0xFFFFFFFFFFFFCDEF) ∧
    testSees 0x00003018 { testState with buf := [(0, 0xEF), (1, 0xCD)] } = some (0, 0xFFFFFFFFFFFFEFCD) := by decide

theorem test_decI32_signed :
    testSees 0x00000019 { testState with buf := [(0, 0xEF), (1, 0xCD), (2, 0xAB), (3, 0x90)] } =
      some (0, 0xFFFFFFFF90ABCDEF) := by decide

theorem test_decI32_raw_outside :
    step (State.withFetchWord { testState with arg1 := 0xFFD } 32 0x00002019) =
      .fault (.undefinedBehaviour (.rawOutOfBounds .decI32 0xFFD)) := rfl

/-- BUF[0..7] = 12 34 56 78 90 AB CD EF. -/
def testBytes : Memory :=
  [(0, 0x12), (1, 0x34), (2, 0x56), (3, 0x78), (4, 0x90), (5, 0xAB), (6, 0xCD), (7, 0xEF)]

theorem test_decI64_orders :
    testSees 0x0000001A { testState with buf := testBytes } = some (0, 0xEFCDAB9078563412) ∧
    testSees 0x0000301A { testState with buf := testBytes } = some (0, 0x1234567890ABCDEF) := by decide

/-- R158: the sign bit of a binary32 pattern is not extended. -/
theorem test_decF32_zeroExtended :
    testSees 0x0000101B { testState with buf := [(0, 0xFF), (1, 0x7F), (2, 0xFF), (3, 0xFF)] } = some (0, 0xFF7FFFFF) := by
  decide

theorem test_decF32_bounds : testSees 0x0000101B { testState with arg1 := 0x100000000 } = some (0x104, 0) := by decide

/-- R159: -0.0. -/
theorem test_decF64_pattern :
    testSees 0x0000001C { testState with
      buf := [(0, 0), (1, 0), (2, 0), (3, 0), (4, 0), (5, 0), (6, 0), (7, 0x80)] } = some (0, 0x8000000000000000) := by decide

/-- The raw tier on a big-endian host writes and reads the same bytes (41_codec.md R146). -/
theorem test_raw_bigNative :
    testWrites 0x00002010 { testState with arg0 := 0xCDEF, cfg := { Config.reference with nativeEndian := .big } } 0 2 =
      some (0, [some 0xEF, some 0xCD]) := by decide

/-! ## Host accesses (95_test_vectors.md section 2.8) -/

/-- Y1 to Y4, Y13. -/
theorem test_hostReads :
    [0x0000, 0x0004, 0x0008, 0x0010, 0x000C].map (hostRead State.reset .b32) =
      [0x43524307, 0x00000004, 0x00001000, 0x00000000, 0x00000000].map Reply.data32 := by decide

/-- Y5 and Y6: an illegal word. -/
theorem test_illegal :
    (testRun 0x0000000A State.reset).map (fun t => [hostRead t .b32 0x0010, hostRead t .b32 0x0014]) =
      some [.data32 0x101, .data32 0x0000000A] := by decide

/-- Y16, Y17, Y20. -/
theorem test_busErrors :
    hostRead State.reset .b8 0x0010 = .busError 0x0010 .b8 ∧
    access (.wr32 0x0022 0x1) State.reset = busError State.reset 0x0022 .b32 ∧
    access (.wr32 0x1000 0x1) State.reset = busError State.reset 0x1000 .b32 := ⟨by decide, rfl, rfl⟩

/-- Y15: a half of ARG0 is written alone. -/
theorem test_argHalf :
    access (.wr32 0x0020 0x1) { State.reset with arg0 := 0x11223344AABBCCDD } =
      .next { State.reset with arg0 := 0x1122334400000001, replies := [.done] } := rfl

/-- Y18 and Y19. -/
theorem test_hostBuf :
    access (.wr8 0x1000 0x5A) State.reset = .next { State.reset with buf := [(0, 0x5A)], replies := [.done] } ∧
    hostRead { State.reset with buf := [(0, 0x5A)] } .b8 0x1000 = .data8 0x5A ∧
    access (.wr8 0x2000 0x77) State.reset = .next { State.reset with replies := [.done] } ∧
    hostRead State.reset .b8 0x2000 = .data8 0 := ⟨rfl, by decide, rfl, by decide⟩

/-- Y22: the soft reset keeps BUF. -/
theorem test_softReset :
    access (.wr32 0x000C 0x1) { testState with buf := [(0, 0x5A)], lastcmd := 0xA, arg3 := 7 } =
      .next { State.reset with buf := [(0, 0x5A)], replies := [.done] } := rfl

/-! ## Witnesses: the hypotheses of every obligation are met -/

theorem test_testState_wf : testState.Wf := ⟨by decide, by decide, by decide, by decide⟩

theorem witness_EncodeThenDecodeReturnsCommand : (Instr.crcCfg 15 .w32 true true true).wellFormed := by decide

theorem witness_DecodedWordIsItsEncoding : decode 0x0000FF01 = .command (.crcCfg 15 .w32 true true true) := by decide

theorem witness_OpcodeRowsNeverOverlap :
    (⟨.decF64, .b, 0x1C⟩ : Row) ∈ opcodeTable ∧ (0x0000301C : Word) &&& Format.b.mask = 0x1C := by decide

theorem witness_IllegalWordsEndWithIllegal :
    (∃ why, decode 0x000A0003 = .illegal why) ∧ (∃ why, decode 0x00060008 = .illegal why) ∧
    (∃ why, decode 0x80000000 = .illegal why) := ⟨⟨_, rfl⟩, ⟨_, rfl⟩, ⟨_, rfl⟩⟩

theorem witness_StepRunsTheWordWrittenToCmd :
    (testState.withFetchWord 32 0x00000007).pending = .wr32 0x0014 0x00000007 :: [] ∧
    decode 0x00000007 = .command (.crcCmp 0) ∧
    (testState.withFetchWord 32 0x0000000A).pending = .wr32 0x0014 0x0000000A :: [] ∧
    decode 0x0000000A = .illegal (.unassignedOp 0x0A) := by decide

theorem witness_StepAcceptsOneAccess :
    State.reset.pending = [] ∧
    State.pending { State.reset with pending := [.rd .b32 0x0000, .hwReset] } = .rd .b32 0x0000 :: [.hwReset] ∧
    step { State.reset with pending := [.rd .b32 0x0000, .hwReset] } =
      .next { State.reset with pending := [.hwReset], replies := [.data32 0x43524307] } := ⟨rfl, rfl, rfl⟩

theorem witness_EveryStepKeepsWf :
    State.Wf { testState with pending := [.wr8 0x1FFF 0xAA] } ∧
    step { State.reset with pending := [.wr8 0x1FFF 0xAA] } =
      .next { State.reset with buf := [(0xFFF, 0xAA)], replies := [.done] } :=
  ⟨⟨by decide, by decide, by decide, by decide⟩, rfl⟩

theorem witness_ContextsAreIndependent :
    contextNumber (.crcUpd 0) ≠ some 1 ∧ contextNumber (.encI16 .little .safe) ≠ some 0 := by decide

theorem witness_EveryCommandCompletes : RawSafe (.encI16 .big .raw) { testState with arg1 := 0xFFE } := by
  intro op n h
  obtain ⟨-, rfl⟩ : CodecOp.encI16 = op ∧ 2 = n := by simpa [codecForm] using h
  decide

theorem witness_TheOnlyFaultIsRawOutOfBounds :
    codecForm (.encI16 .big .raw) = some (.encI16, 2, .raw) ∧ testState.cfg.bufSize < (0xFFF : DWord).toNat + 2 ∧
    exec (.encI16 .big .raw) { testState with arg1 := 0xFFF } =
      .fault (.undefinedBehaviour (.rawOutOfBounds .encI16 0xFFF)) := ⟨by decide, by decide, rfl⟩

theorem witness_ErrorsArePrecise :
    ∃ t, issue 0x00000105 testState = .next t ∧ t.status.err ≠ .ok := ⟨_, rfl, by decide⟩

theorem witness_IllegalAndBadctxComeFirst :
    decode 0x00000100 = .illegal (.reservedBitSet 0x00) ∧
    (contextNumber (.crcUpd 4) = some 4 ∧ testState.cfg.numCtx ≤ 4) ∧
    (contextNumber (.crcRfl .w32) = none ∧ ∃ t, exec (.crcRfl .w32) testState = .next t) ∧
    decode 0x00003012 = .command (.encI64 .big .raw) ∧ contextNumber (.encI64 .big .raw) = none :=
  ⟨by decide, by decide, ⟨by decide, _, rfl⟩, by decide, by decide⟩

theorem witness_UnconfiguredContextRaisesNocfg :
    contextNumber (.crcUpd 3) = some 3 ∧ constructs (.crcUpd 3) = false ∧ 3 < testState.cfg.numCtx ∧
    testState.context 3 = none := by decide

/-- A word for each clause: illegal, BADCTX, NOCFG, and a bounds error on a configured context. -/
theorem witness_ErrorsFollowThePriorityOrder :
    decode 0x0000000A = .illegal (.unassignedOp 0x0A) ∧
    (decode 0x00000905 = .command (.crcUpd 9) ∧ NamesNoContext (.crcUpd 9) testState ∧
      ∃ t, issue 0x00000905 testState = .next t) ∧
    (decode 0x00000105 = .command (.crcUpd 1) ∧ ¬ NamesNoContext (.crcUpd 1) testState ∧
      NamesUnconfigured (.crcUpd 1) testState ∧ ∃ t, issue 0x00000105 testState = .next t) ∧
    (decode 0x00050008 = .command (.crcRd 0 .table) ∧ ¬ NamesNoContext (.crcRd 0 .table) testState ∧
      ¬ NamesUnconfigured (.crcRd 0 .table) testState ∧
      boundsError (.crcRd 0 .table) { testState with arg0 := 255 } = none ∧
      (∃ t, issue 0x00050008 { testState with arg0 := 255 } = .next t ∧ t.status.err = .ok) ∧
      boundsError (.crcRd 0 .table) { testState with arg0 := 256 } = some .bounds ∧
      ∃ t, issue 0x00050008 { testState with arg0 := 256 } = .next t ∧ t.status.err = .bounds) := by
  refine ⟨by decide, ⟨by decide, ⟨9, rfl, by decide⟩, _, rfl⟩, ⟨by decide, ?_, ⟨rfl, 1, rfl, by decide, rfl⟩, _, rfl⟩,
    ⟨by decide, ?_, ?_, by decide, ⟨_, rfl, by decide⟩, by decide, _, rfl, by decide⟩⟩
  · rintro ⟨c, hc, hge⟩; cases hc; revert hge; decide
  · rintro ⟨c, hc, hge⟩; cases hc; revert hge; decide
  · rintro ⟨_, c, hc, _, hn⟩; cases hc; cases hn

theorem witness_StatusRegister :
    (∃ t, issue 0x00000004 testState = .next t ∧ t.status.err = .ok) ∧
    ∃ t, access (.wr32 0x0010 0xFF) { State.reset with status := { err := .illegal, sticky := true } } = .next t ∧
      t.status.sticky = true := ⟨⟨_, rfl, by decide⟩, ⟨_, rfl, by decide⟩⟩

theorem witness_ArgRegisters : ∃ t, exec (.crcRd 0 .reg) testState = .next t := ⟨_, rfl⟩

theorem witness_ResultRegister :
    (∃ t, exec (.crcInit 0) testState = .next t ∧ returnsValue (.crcInit 0) = false) ∧
    (∃ t, exec (.crcRd 1 .reg) testState = .next t ∧ t.status.err ≠ .ok) := ⟨⟨_, rfl, by decide⟩, ⟨_, rfl, by decide⟩⟩

theorem witness_DiscoveryRegisters :
    State.reset.cfg.Legal ∧ Config.Legal { numCtx := 16, bufSize := 61440, nativeEndian := .big, base := 0xFFFF0000 } := by
  decide

/-- The last offset of the register region and the first of the BUF region. -/
theorem witness_UnacceptedAccessesAreBusErrors :
    ((0x0FFC : Offset).toNat < 0x1000 ∧ AccessSize.b64 ≠ .b32) ∧ (0x0FFF : Offset).toNat % 4 ≠ 0 ∧
    (0x1000 ≤ (0x1000 : Offset).toNat ∧ AccessSize.b32 ≠ .b8) := by decide

theorem witness_HostReachesBufBytes :
    (0x1000 ≤ (0x1FFF : Offset).toNat ∧ (0x1FFF : Offset).toNat - 0x1000 < testState.cfg.bufSize) ∧
    (0x1000 ≤ (0x2000 : Offset).toNat ∧ testState.cfg.bufSize ≤ (0x2000 : Offset).toNat - 0x1000) := by decide

theorem witness_ReservedOffsetsReadZero :
    ((0x0018 : Offset).toNat = 0x18 ∧ (0x0018 : Offset).toNat % 4 = 0) ∧ (0x001C : Offset).toNat = 0x1C ∧
    (0x48 ≤ (0x0FFC : Offset).toNat ∧ (0x0FFC : Offset).toNat < 0x1000 ∧ (0x0FFC : Offset).toNat % 4 = 0) := by decide

theorem witness_HostAddressesMapThroughBase :
    0x2FFFF = 0x20000 + (0xFFFF : Offset).toNat ∧ (0x1FFFF < 0x20000) ∧ 0x20000 + 0x10000 ≤ 0x30000 := by decide

theorem witness_ReflectionAndByteSwap : 15 < 16 ∧ 16 % 8 = 0 ∧ 1 < 16 / 8 := by decide

theorem witness_NativeEndianIsNotObservable : (0x0008 : Offset) ≠ 0x0004 := by decide

theorem witness_SoftResetKeepsBuf : (0xFFFFFFFE : Word).getLsbD 0 = false ∧ (0x1 : Word).getLsbD 0 = true := by decide

theorem witness_NopEffect : (0x00000100 : Word).extractLsb' 0 8 = 0 ∧ (0x00000100 : Word) ≠ 0 := by decide

theorem witness_ArgPseudoSetsTheWholeRegister :
    State.pending { testState with pending := argOps 3 0x1122334455667788 } = argOps 3 0x1122334455667788 ++ [] := by decide

theorem witness_ByteUpdate :
    (CrcOf.generated ({ poly := 0x8005, seed := 0, xorout := 0, ri := true, ro := true, bs := false } : CrcParams 16)).params.ri
      = true ∧
    (CrcOf.generated ({ poly := 0x1021, seed := 0, xorout := 0, ri := false, ro := true, bs := false } : CrcParams 16)).params.ri
      = false := by decide

/-- A well-formed state with an existing context: CRC.CFG and CRC.VAR. -/
theorem witness_CfgConstructsFromParameters : testState.Wf ∧ 3 < testState.cfg.numCtx ∧ testState.cfg.numCtx ≤ 4 :=
  ⟨test_testState_wf, by decide⟩

theorem witness_VarConstructsTheNamedVariant : testState.Wf ∧ 0 < testState.cfg.numCtx ∧ testState.cfg.numCtx ≤ 15 :=
  ⟨test_testState_wf, by decide⟩

/-- The last legal table offsets. -/
theorem witness_CfgtCopiesTheTableImage :
    testState.Wf ∧ 1 < testState.cfg.numCtx ∧ (0xE00 : DWord).toNat + 512 ≤ testState.cfg.bufSize ∧
    (0xC00 : DWord).toNat + 1024 ≤ testState.cfg.bufSize ∧ testState.cfg.bufSize < (0xE01 : DWord).toNat + 512 ∧
    testState.cfg.bufSize < (0xC01 : DWord).toNat + 1024 ∧ testState.cfg.numCtx ≤ 4 := ⟨test_testState_wf, by decide⟩

theorem witness_ParametersAndTableAreImmutable :
    constructs (.crcFin 0) = false ∧ ∃ t, exec (.crcFin 0) testState = .next t := ⟨by decide, _, rfl⟩

theorem witness_InitSetsRegToSeed :
    0 < testFinal.cfg.numCtx ∧ ∃ k, testFinal.context 0 = some k := ⟨by decide, _, rfl⟩

/-- NeedsContext: the first CTX that names no context, and a context with VALID = 0. -/
theorem witness_NeedsContext :
    testState.cfg.numCtx ≤ 4 ∧ 3 < testState.cfg.numCtx ∧ testState.context 3 = none := by decide

/-- A count of 0 at BUF_SIZE is in bounds. -/
theorem witness_UpdFoldsBytesIntoReg :
    0 < testState.cfg.numCtx ∧ (∃ k, testState.context 0 = some k) ∧
    (0x1000 : DWord).toNat + (0 : DWord).toNat ≤ testState.cfg.bufSize ∧
    testState.cfg.bufSize < (0x1001 : DWord).toNat + (0 : DWord).toNat := ⟨by decide, ⟨_, rfl⟩, by decide⟩

theorem witness_UpdTwiceIsUpdOnce :
    0 < testState.cfg.numCtx ∧ (∃ k, testState.context 0 = some k) ∧ 0 + 5 + 5 ≤ testState.cfg.bufSize ∧
    testState.cfg.bufSize ≤ 61440 := ⟨by decide, ⟨_, rfl⟩, by decide, by decide⟩

/-- A configured context of each width. -/
def testBoth : State :=
  { testState with ctx := [some (variantRow .crc32Standard).construct, some (variantRow .ccittKermitLsb).construct, none, none] }

theorem witness_FinWritesTheDigest :
    (∃ x, testBoth.context 0 = some (.w32 x)) ∧ (0xFFC : DWord).toNat + 4 ≤ testBoth.cfg.bufSize ∧
    (∃ x, testBoth.context 1 = some (.w16 x)) ∧ (0xFFE : DWord).toNat + 2 ≤ testBoth.cfg.bufSize ∧
    testBoth.cfg.bufSize < (0xFFD : DWord).toNat + 4 ∧ 1 < testBoth.cfg.numCtx :=
  ⟨⟨_, rfl⟩, by decide, ⟨_, rfl⟩, by decide, by decide, by decide⟩

theorem witness_CmpComputesTheDigestValue :
    1 < testBoth.cfg.numCtx ∧ (∃ k, testBoth.context 1 = some k) ∧
    (0 : DWord).toNat + (10 : DWord).toNat ≤ testBoth.cfg.bufSize ∧
    testBoth.cfg.bufSize < (0 : DWord).toNat + (0x1001 : DWord).toNat := ⟨by decide, ⟨_, rfl⟩, by decide⟩

theorem witness_CmpDoesNotReadReg :
    (∃ x, testBoth.context 1 = some (.w16 x)) ∧ ∃ x, testBoth.context 0 = some (.w32 x) := ⟨⟨_, rfl⟩, _, rfl⟩

theorem witness_CmpChainsThroughTheRegister :
    1 < testBoth.cfg.numCtx ∧ (∃ k, testBoth.context 1 = some k) ∧ 0 + 5 + 5 ≤ testBoth.cfg.bufSize ∧
    testBoth.cfg.bufSize ≤ 61440 := ⟨by decide, ⟨_, rfl⟩, by decide, by decide⟩

/-- The last table index, and the first outside the table. -/
theorem witness_RdReturnsTheSelectedField :
    1 < testBoth.cfg.numCtx ∧ (∃ k, testBoth.context 1 = some k) ∧ (255 : DWord).toNat < 256 ∧ 255 < (256 : DWord).toNat :=
  ⟨by decide, ⟨_, rfl⟩, by decide, by decide⟩

/-- The last legal offset of each codec width, and the first illegal one. -/
theorem witness_EncodeWritesTheBytes :
    (0xFFE : DWord).toNat + 2 ≤ testState.cfg.bufSize ∧ testState.cfg.bufSize < (0xFFF : DWord).toNat + 2 ∧
    (0xFFC : DWord).toNat + 4 ≤ testState.cfg.bufSize ∧ testState.cfg.bufSize < (0xFFD : DWord).toNat + 4 ∧
    (0xFF8 : DWord).toNat + 8 ≤ testState.cfg.bufSize ∧ testState.cfg.bufSize < (0xFF9 : DWord).toNat + 8 := by decide

theorem witness_DecodeReturnsTheValue :
    (0xFFE : DWord).toNat + 2 ≤ testState.cfg.bufSize ∧ testState.cfg.bufSize < (0xFFF : DWord).toNat + 2 ∧
    (0xFFC : DWord).toNat + 4 ≤ testState.cfg.bufSize ∧ testState.cfg.bufSize < (0xFFD : DWord).toNat + 4 ∧
    (0xFF8 : DWord).toNat + 8 ≤ testState.cfg.bufSize ∧ testState.cfg.bufSize < (0xFF9 : DWord).toNat + 8 := by decide

theorem witness_RawTierIsTheSafeTierInBounds :
    (0xFF8 : DWord).toNat + 8 ≤ testState.cfg.bufSize ∧ testState.cfg.bufSize < (0xFF9 : DWord).toNat + 8 := by decide

theorem witness_EncodeThenDecodeReturnsTheValue : (0xFF8 : DWord).toNat + 8 ≤ testState.cfg.bufSize := by decide

theorem witness_SafeTierIsBoundsChecked :
    codecForm (.decI64 .big .safe) = some (.decI64, 8, .safe) ∧ (0xFF8 : DWord).toNat + 8 ≤ testState.cfg.bufSize ∧
    testState.cfg.bufSize < (0xFF9 : DWord).toNat + 8 := by decide

theorem witness_CodecTouchesOnlyItsOwn :
    (codecForm (.encF64 .big .raw)).isSome ∧ (∃ t, exec (.encF64 .big .raw) testState = .next t) ∧
    returnsValue (.encF64 .big .raw) = false ∧ (codecForm (.decF64 .big .raw)).isSome ∧
    (∃ t, exec (.decF64 .big .raw) testState = .next t) ∧ returnsValue (.decF64 .big .raw) = true :=
  ⟨rfl, ⟨_, rfl⟩, rfl, rfl, ⟨_, rfl⟩, rfl⟩

end Sys2Proof
end

/-! SUPPORT. The scope family (00_scope.md): what keeps the invariant `State.Wf`, the reset state, reflection and byte swap. -/
namespace Sys2Proof.Machine

/-! ## What keeps the invariant -/

/-- `State.Wf` speaks of the configuration, the contexts and BUF only. -/
theorem State.Wf.congr {s t : State} (hs : s.Wf) (hcfg : t.cfg = s.cfg) (hctx : t.ctx = s.ctx) (hbuf : t.buf = s.buf) :
    t.Wf where
  legal := hcfg ▸ hs.legal
  contexts := by rw [hctx, hcfg, hs.contexts]
  canonical := hbuf ▸ hs.canonical
  inside := by rw [hbuf, hcfg]; exact hs.inside

theorem State.Wf.endWith {s : State} (hs : s.Wf) (e : ErrCode) : (s.endWith e).Wf := hs.congr rfl rfl rfl

theorem State.Wf.setResult {s : State} (hs : s.Wf) (v : DWord) : (s.setResult v).Wf := hs.congr rfl rfl rfl

theorem State.Wf.writeStatus {s : State} (hs : s.Wf) (v : Word) : (s.writeStatus v).Wf := hs.congr rfl rfl rfl

theorem State.Wf.answer {s : State} (hs : s.Wf) (r : Reply) : (s.answer r).Wf := hs.congr rfl rfl rfl

theorem State.Wf.setContext {s : State} (hs : s.Wf) (c : Nat) (k : Crc) : (s.setContext c k).Wf where
  legal := hs.legal
  contexts := by simp [hs.contexts]
  canonical := hs.canonical
  inside := hs.inside

theorem State.Wf.bufWrite {s : State} (hs : s.Wf) {off : Nat} {bs : List Byte} (h : off + bs.length ≤ s.cfg.bufSize) :
    (s.bufWrite off bs).Wf where
  legal := hs.legal
  contexts := hs.contexts
  canonical := State.bufWrite_wf s off bs hs.canonical
  inside cell hcell := by
    rcases Memory.mem_storeAll s.buf off bs cell hcell with ⟨_, hlt⟩ | hold
    · exact Nat.lt_of_lt_of_le hlt h
    · exact hs.inside cell hold

theorem State.Wf.softReset {s : State} (hs : s.Wf) : s.softReset.Wf where
  legal := hs.legal
  contexts := by simp
  canonical := hs.canonical
  inside := hs.inside

theorem State.Wf.hardReset {s : State} (hs : s.Wf) : s.hardReset.Wf where
  legal := hs.legal
  contexts := by simp
  canonical := s.hardReset_wf
  inside := by simp

/-! ## Commands, accesses and steps -/

/-- The next state, if there is one, meets the invariant. -/
def NextWf : Outcome → Prop
  | .next t => t.Wf
  | .fault _ => True
  | .refused _ => True

theorem NextWf.complete {s : State} (hs : s.Wf) : NextWf (complete s) := hs.endWith .ok

theorem NextWf.raiseErr {s : State} (hs : s.Wf) (e : ErrCode) : NextWf (raiseErr e s) := hs.endWith e

theorem NextWf.mapNext_answer {o : Outcome} (h : NextWf o) (r : Reply) : NextWf (mapNext (fun t => t.answer r) o) := by
  cases o with
  | next t => exact State.Wf.answer h r
  | fault _ => trivial
  | refused _ => trivial

theorem CommandOutcome.nextWf {i : Instr} {s : State} {o : Outcome} (h : CommandOutcome i s o) (hs : s.Wf) :
    NextWf o := by
  cases h with
  | badctx => exact .raiseErr hs _
  | nocfg => exact .raiseErr hs _
  | bounds => exact .raiseErr hs _
  | construct => exact .raiseErr hs _
  | nothing => exact .complete hs
  | construction c k => exact .complete (hs.setContext c k)
  | register c _ k' => exact .complete (hs.setContext c k')
  | bytes off bs _ hin => exact .complete (hs.bufWrite hin)
  | digest off bs v _ hin => exact .complete ((hs.bufWrite hin).setResult v)
  | value v => exact .complete (hs.setResult v)
  | rawFault => trivial

theorem issue_nextWf (w : Word) {s : State} (hs : s.Wf) : NextWf (issue w s) := by
  have hw : State.Wf { s with lastcmd := w } := hs.congr rfl rfl rfl
  rcases issue_cases w s with ⟨i, _, ho⟩ | ⟨_, _, ho⟩
  · rw [ho]; exact (exec_outcome i _).nextWf hw
  · rw [ho]; exact .raiseErr hw .illegal

theorem AccessOutcome.nextWf {s : State} {o : Outcome} (h : AccessOutcome s o) (hs : s.Wf) : NextWf o := by
  cases h with
  | answered r => exact hs.answer r
  | args => exact hs.congr rfl rfl rfl
  | status v => exact (hs.writeStatus v).answer .done
  | softReset => exact hs.softReset.answer .done
  | byte off v hlt => exact (hs.bufWrite hlt).answer .done
  | issued w => exact (issue_nextWf w hs).mapNext_answer .done
  | hardReset => exact hs.hardReset

theorem step_nextWf {s : State} (hs : s.Wf) : NextWf (step s) := by
  rcases step_cases s with ⟨_, ho⟩ | ⟨op, ops, _, ho⟩
  · rw [ho]; exact hs
  · rw [ho]; exact (access_outcome op _).nextWf (hs.congr rfl rfl rfl)

/-- Settles O8, from what each command and each access can end in. -/
theorem everyStepKeepsWf : Obligations.EveryStepKeepsWf := by
  intro s t hs hstep
  have h : NextWf (step s) := step_nextWf hs
  rwa [hstep] at h

/-- Settles O9: the reference configuration is legal and nothing is written in BUF. -/
theorem resetIsWf : Obligations.ResetIsWf where
  legal := by decide
  contexts := List.length_replicate
  canonical := State.reset_buf_wf
  inside := by simp [State.reset]

/-! ## Reflection and byte swap (00_scope.md R13) -/

theorem extractLsb'_bswap {w : Nat} (hw : w % 8 = 0) (v : BitVec w) (k : Nat) (hk : k < w / 8) :
    (bswap v).extractLsb' (8 * k) 8 = v.extractLsb' (8 * (w / 8 - 1 - k)) 8 :=
  calc (bswap v).extractLsb' (8 * k) 8
    _ = (leBytes (bswap v))[k]'(by simpa using hk) := (leBytes_getElem _ k _).symm
    _ = (beBytes v)[k]'(by simpa using hk) := by simp only [leBytes_bswap hw]
    _ = v.extractLsb' (8 * (w / 8 - 1 - k)) 8 := beBytes_getElem v k _

theorem reflect_reflect {w : Nat} (v : BitVec w) : reflect (reflect v) = v := BitVec.reverse_reverse_eq

/-- Settles O32: a byte of the swapped value is a byte of its big-endian byte list. -/
theorem reflectionAndByteSwap : Obligations.ReflectionAndByteSwap :=
  ⟨fun _ v i hi => reflect_getLsbD v i hi,
   fun _ v k hw hk => extractLsb'_bswap hw v k hk,
   fun _ v => ⟨reflect_reflect v, fun hw => bswap_bswap hw v⟩⟩

end Sys2Proof.Machine

/-! SUPPORT. The state family (10_state.md): STATUS and the other interface registers, what commands leave alone, the reserved
offsets, the soft reset. -/
namespace Sys2Proof.Machine

/-! ## A change of the state carried through a command -/

/-- Making the change `f` before a command ends at `s` is making the change `g` after it, and no check sees `f`. -/
structure CarriedThrough (f g : State → State) (s : State) : Prop where
  numCtx : (f s).cfg.numCtx = s.cfg.numCtx
  bufSize : (f s).cfg.bufSize = s.cfg.bufSize
  endWith : ∀ e, (f s).endWith e = g (s.endWith e)

namespace CarriedThrough

variable {f g : State → State} {s : State} {body body' : Outcome}

theorem raiseErr (h : CarriedThrough f g s) (e : ErrCode) : raiseErr e (f s) = mapNext g (raiseErr e s) :=
  congrArg _ (h.endWith e)

theorem checkIndex (h : CarriedThrough f g s) (c : Nat) (hb : body' = mapNext g body) :
    checkIndex c (f s) body' = mapNext g (checkIndex c s body) := by
  rcases Nat.lt_or_ge c s.cfg.numCtx with hc | hc
  · rw [checkIndex_pass c s body hc, checkIndex_pass c (f s) body' (h.numCtx ▸ hc), hb]
  · rw [checkIndex_fail c s body hc, checkIndex_fail c (f s) body' (h.numCtx ▸ hc), h.raiseErr]

theorem useContext (h : CarriedThrough f g s) (c : Nat) (hctx : (f s).context c = s.context c)
    {body body' : Crc → Outcome} (hb : ∀ k, body' k = mapNext g (body k)) :
    useContext c (f s) body' = mapNext g (useContext c s body) := by
  refine h.checkIndex c ?_
  rw [hctx]
  cases s.context c with
  | none => exact h.raiseErr .nocfg
  | some k => exact hb k

theorem checkBounds (h : CarriedThrough f g s) (off n : Nat) (e : ErrCode) (hb : body' = mapNext g body) :
    checkBounds off n e (f s) body' = mapNext g (checkBounds off n e s body) := by
  rcases Nat.lt_or_ge s.cfg.bufSize (off + n) with hn | hn
  · rw [checkBounds_fail off n e s body hn, checkBounds_fail off n e (f s) body' (h.bufSize ▸ hn), h.raiseErr]
  · rw [checkBounds_pass off n e s body hn, checkBounds_pass off n e (f s) body' (h.bufSize ▸ hn), hb]

theorem codecBounds (h : CarriedThrough f g s) (op : CodecOp) (tier : Tier) (off n : Nat) (hb : body' = mapNext g body) :
    codecBounds op tier off n (f s) body' = mapNext g (codecBounds op tier off n s body) := by
  rcases Nat.lt_or_ge s.cfg.bufSize (off + n) with hn | hn
  · have hn' : (f s).cfg.bufSize < off + n := h.bufSize ▸ hn
    cases tier with
    | safe => rw [codecBounds_safe op off n s body hn, codecBounds_safe op off n (f s) body' hn', h.raiseErr]
    | raw => rw [codecBounds_raw op off n s body hn, codecBounds_raw op off n (f s) body' hn', mapNext_fault]
  · rw [codecBounds_pass op tier off n s body hn, codecBounds_pass op tier off n (f s) body' (h.bufSize ▸ hn), hb]

end CarriedThrough

/-! ## No command reads STATUS -/

/-- The state with another STATUS. -/
def State.setStatus (st : Status) (s : State) : State := { s with status := st }

/-- The end of a command, had STATUS been `st` before it: the same ERR, and STICKY as 10_state.md R27 makes it from `st`. -/
def State.endedFrom (st : Status) (t : State) : State := { t with status := st.after t.status.err }

theorem setStatus_carriedThrough (st : Status) (s : State) :
    CarriedThrough (State.setStatus st) (State.endedFrom st) s := ⟨rfl, rfl, fun _ => rfl⟩

theorem encodeValue_setStatus (op : CodecOp) (w : Nat) (e : Endian) (t : Tier) (st : Status) (s : State) :
    encodeValue op w e t (s.setStatus st) = mapNext (State.endedFrom st) (encodeValue op w e t s) :=
  (setStatus_carriedThrough st s).codecBounds op t _ _ rfl

theorem decodeValue_setStatus (op : CodecOp) (w : Nat) (widen : BitVec w → DWord) (e : Endian) (t : Tier) (st : Status)
    (s : State) :
    decodeValue op w widen e t (s.setStatus st) = mapNext (State.endedFrom st) (decodeValue op w widen e t s) :=
  (setStatus_carriedThrough st s).codecBounds op t _ _ rfl

theorem exec_setStatus (i : Instr) (st : Status) (s : State) :
    exec i (s.setStatus st) = mapNext (State.endedFrom st) (exec i s) := by
  have carry := setStatus_carriedThrough st s
  cases i with
  | nop => rfl
  | crcCfg c width => cases width <;> exact carry.checkIndex c rfl
  | crcCfgt c width =>
    cases width <;> exact carry.checkIndex c (carry.checkBounds _ _ _ rfl)
  | crcVar c => exact carry.checkIndex c rfl
  | crcInit c => exact carry.useContext c rfl fun _ => rfl
  | crcUpd c => exact carry.useContext c rfl fun _ => carry.checkBounds _ _ _ rfl
  | crcFin c => exact carry.useContext c rfl fun _ => carry.checkBounds _ _ _ rfl
  | crcCmp c => exact carry.useContext c rfl fun _ => carry.checkBounds _ _ _ rfl
  | crcRd c sel =>
    refine carry.useContext c rfl fun k => ?_
    have hindex : (s.setStatus st).index0 = s.index0 := rfl
    rw [hindex]
    cases k.read sel s.index0 <;> rfl
  | crcRfl width => cases width <;> rfl
  | encI16 e t => exact encodeValue_setStatus _ _ e t st s
  | encI32 e t => exact encodeValue_setStatus _ _ e t st s
  | encI64 e t => exact encodeValue_setStatus _ _ e t st s
  | encF32 e t => exact encodeValue_setStatus _ _ e t st s
  | encF64 e t => exact encodeValue_setStatus _ _ e t st s
  | decI16 e t => exact decodeValue_setStatus _ _ _ e t st s
  | decI32 e t => exact decodeValue_setStatus _ _ _ e t st s
  | decI64 e t => exact decodeValue_setStatus .decI64 64 (fun v => v) e t st s
  | decF32 e t => exact decodeValue_setStatus _ _ _ e t st s
  | decF64 e t => exact decodeValue_setStatus .decF64 64 (fun v => v) e t st s

/-- Settles O10: a change of STATUS is carried through every check and every end of a command. -/
theorem statusNeverChangesACommand : Obligations.StatusNeverChangesACommand := fun i s st => exec_setStatus i st s

/-! ## The register region -/

theorem accepted_b32 {a : Offset} (hlt : a.toNat < 0x1000) (hal : a.toNat % 4 = 0) : accepted .b32 a = true := by
  simp [accepted, hlt, hal]

theorem lt_of_accepted_b32 {a : Offset} (ha : accepted .b32 a = true) : a.toNat < 0x1000 := by
  by_contra hge
  simp [accepted, hge] at ha

/-- A 32-bit read that the window accepts returns the register. -/
theorem hostRead_b32 (s : State) {a : Offset} (ha : accepted .b32 a = true) :
    hostRead s .b32 a = .data32 (readReg s (windowReg a)) := by
  simp [hostRead, ha, lt_of_accepted_b32 ha]

/-- A 32-bit write that the window accepts is a write to the register. -/
theorem access_wr32 (s : State) {a : Offset} (v : Word) (ha : accepted .b32 a = true) :
    access (.wr32 a v) s = mapNext (fun t => t.answer .done) (writeReg s (windowReg a) v) := by
  simp [access, ha]

theorem access_wr32_busError (s : State) {a : Offset} (v : Word) (ha : accepted .b32 a = false) :
    access (.wr32 a v) s = .next (s.answer (.busError a .b32)) := by
  simp [access, busError, ha]

/-- What an 8-bit write can do. -/
theorem access_wr8_cases (s : State) (a : Offset) (v : Byte) :
    (accepted .b8 a = true ∧ access (.wr8 a v) s = .next ((writeBuf s a v).answer .done)) ∨
    (accepted .b8 a = false ∧ access (.wr8 a v) s = .next (s.answer (.busError a .b8))) := by
  cases ha : accepted .b8 a with
  | true => exact .inl ⟨rfl, by simp [access, ha]⟩
  | false => exact .inr ⟨rfl, by simp [access, busError, ha]⟩

theorem accessLeaves_wr32 {s t : State} {a : Offset} {v : Word} (ha : accepted .b32 a = true)
    (h : writeReg s (windowReg a) v = .next t) : AccessLeaves (.wr32 a v) s t := by
  refine ⟨.done, by simp, ?_⟩
  rw [access_wr32 s v ha, h, mapNext_next]

/-- The one offset of a register; the reserved offsets are many (10_state.md R22). -/
def WindowReg.offset? : WindowReg → Option Nat
  | .id => some 0x0000
  | .caps => some 0x0004
  | .bufsz => some 0x0008
  | .ctrl => some 0x000C
  | .status => some 0x0010
  | .cmd => some 0x0014
  | .arg0Lo => some 0x0020
  | .arg0Hi => some 0x0024
  | .arg1Lo => some 0x0028
  | .arg1Hi => some 0x002C
  | .arg2Lo => some 0x0030
  | .arg2Hi => some 0x0034
  | .arg3Lo => some 0x0038
  | .arg3Hi => some 0x003C
  | .resultLo => some 0x0040
  | .resultHi => some 0x0044
  | .reserved => none

theorem toNat_eq_of_offset?_windowReg {a : Offset} {n : Nat} (h : (windowReg a).offset? = some n) : a.toNat = n := by
  unfold windowReg at h
  split at h <;> simp_all [WindowReg.offset?]

theorem windowReg_eq_ctrl {a : Offset} (h : windowReg a = .ctrl) : a = 0x000C :=
  BitVec.eq_of_toNat_eq (toNat_eq_of_offset?_windowReg (by rw [h]; rfl))

theorem windowReg_eq_status {a : Offset} (h : windowReg a = .status) : a = 0x0010 :=
  BitVec.eq_of_toNat_eq (toNat_eq_of_offset?_windowReg (by rw [h]; rfl))

/-- The reserved offsets of the register region (10_state.md R38). -/
theorem windowReg_reserved {a : Offset} (hres : a.toNat = 0x18 ∨ a.toNat = 0x1C ∨ 0x48 ≤ a.toNat) :
    windowReg a = .reserved := by
  have hoff : ∀ n, (windowReg a).offset? = some n → n = 0x18 ∨ n = 0x1C ∨ 0x48 ≤ n :=
    fun n hn => toNat_eq_of_offset?_windowReg hn ▸ hres
  cases hreg : windowReg a <;> simp [hreg, WindowReg.offset?] at hoff ⊢

/-! ## Issuing a command -/

theorem issue_of_command {w : Word} {i : Instr} (h : decode w = .command i) (s : State) :
    issue w s = exec i { s with lastcmd := w } := by
  simp [issue, h]

theorem issue_of_illegal {w : Word} {why : IllegalWord} (h : decode w = .illegal why) (s : State) :
    issue w s = .next { s with lastcmd := w, status := { err := .illegal, sticky := true } } := by
  simp [issue, h, raiseErr_eq]

theorem step_of_pending {s : State} {op : HostOp} {ops : List HostOp} (h : s.pending = op :: ops) :
    step s = access op { s with pending := ops } := by
  simp [step, h]

/-- A step that accepts a write to CMD issues the word and answers the access. -/
theorem step_wr32_cmd {s : State} {w : Word} {ops : List HostOp} (h : s.pending = .wr32 0x0014 w :: ops) :
    step s = mapNext (fun t => t.answer .done) (issue w { s with pending := ops }) :=
  (step_of_pending h).trans (access_wr32 _ w rfl)

/-- Settles O6, by the rule of a write to CMD and the two ends of issuing a word. -/
theorem stepRunsTheWordWrittenToCmd : Obligations.StepRunsTheWordWrittenToCmd := by
  refine ⟨fun s w ops i hp hw => ?_, fun s w ops why hp hw => ?_, fun s => hostRead_b32 s rfl, rfl⟩
  · rw [step_wr32_cmd hp, issue_of_command hw]; rfl
  · rw [step_wr32_cmd hp, issue_of_illegal hw]; rfl

/-! ## STATUS (10_state.md R27) -/

theorem Status.getLsbD_toWord (st : Status) (j : Nat) :
    st.toWord.getLsbD j = if j < 4 then st.err.code.getLsbD j else decide (j = 8) && st.sticky := by
  rw [Status.toWord, BitVec.getLsbD_or, BitVec.getLsbD_setWidth, BitVec.getLsbD_shiftLeft, BitVec.getLsbD_setWidth,
    BitVec.getLsbD_ofBool]
  by_cases hj : j < 4
  · simp [hj, show j < 32 by omega, show j < 8 by omega]
  · have hcode : st.err.code.getLsbD j = false := BitVec.getLsbD_of_ge _ j (by omega)
    by_cases h8 : j = 8
    · simp [h8]
    · simp [hj, h8, hcode]; omega

theorem issue_setStatus (w : Word) (st : Status) (s : State) :
    issue w (s.setStatus st) = mapNext (State.endedFrom st) (issue w s) := by
  cases hw : decode w with
  | command i => rw [issue_of_command hw, issue_of_command hw]; exact exec_setStatus i st { s with lastcmd := w }
  | illegal why => rw [issue_of_illegal hw, issue_of_illegal hw]; simp [State.setStatus, State.endedFrom, Status.after]

/-- The ERR that a command finds is of no account: `State.endedFrom` reads STICKY only. -/
theorem issue_setErr (w : Word) (e : ErrCode) (s : State) :
    issue w (s.setStatus { err := e, sticky := s.status.sticky }) = issue w s :=
  calc issue w (s.setStatus { err := e, sticky := s.status.sticky })
    _ = mapNext (State.endedFrom s.status) (issue w s) := issue_setStatus w _ s
    _ = issue w (s.setStatus s.status) := (issue_setStatus w s.status s).symm
    _ = issue w s := rfl

/-- Every command leaves STATUS as its ERR and the STATUS before it make it. -/
theorem issue_status {w : Word} {s t : State} (h : issue w s = .next t) : t.status = s.status.after t.status.err := by
  have hself : issue w s = mapNext (State.endedFrom s.status) (issue w s) := issue_setStatus w s.status s
  rw [h, mapNext_next] at hself
  exact congrArg State.status (Host.Outcome.next.inj hself)

theorem issue_sticky {w : Word} {s t : State} (h : issue w s = .next t) :
    t.status.sticky = (s.status.sticky || decide (t.status.err ≠ .ok)) := congrArg Status.sticky (issue_status h)

/-- Of the writes to registers only those to STATUS and to CTRL can clear STICKY. -/
theorem writeReg_keeps_sticky {s t : State} {r : WindowReg} {v : Word} (h : writeReg s r v = .next t)
    (hs : s.status.sticky = true) :
    t.status.sticky = true ∨ (r = .status ∧ v.getLsbD 8 = true) ∨ (r = .ctrl ∧ v.getLsbD 0 = true) := by
  cases r with
  | ctrl =>
    cases hv : v.getLsbD 0 with
    | true => exact .inr (.inr ⟨rfl, rfl⟩)
    | false =>
      simp only [writeReg, hv] at h
      cases h
      exact .inl hs
  | status =>
    cases hv : v.getLsbD 8 with
    | true => exact .inr (.inl ⟨rfl, rfl⟩)
    | false =>
      cases h
      exact .inl (by rw [State.writeStatus_status, Status.hostWrite_sticky, hs, hv]; rfl)
  | cmd => exact .inl (by rw [issue_sticky h, hs, Bool.true_or])
  | _ => cases h; exact .inl hs

theorem writeBuf_status (s : State) (a : Offset) (v : Byte) : (writeBuf s a v).status = s.status := by
  unfold writeBuf
  split <;> rfl

/-- What clears STICKY: a hardware reset, a write to STATUS with bit 8 set, and a soft reset. -/
theorem access_keeps_sticky {op : HostOp} {s t : State} (h : access op s = .next t) (hs : s.status.sticky = true) :
    t.status.sticky = true ∨ op = .hwReset ∨ (∃ v : Word, op = .wr32 0x0010 v ∧ v.getLsbD 8 = true) ∨
      ∃ v : Word, op = .wr32 0x000C v ∧ v.getLsbD 0 = true := by
  cases op with
  | hwReset => exact .inr (.inl rfl)
  | wr8 a v =>
    rcases access_wr8_cases s a v with ⟨_, ho⟩ | ⟨_, ho⟩
    · rw [ho] at h
      obtain rfl := Host.Outcome.next.inj h
      exact .inl (by rw [State.answer_status, writeBuf_status, hs])
    · rw [ho] at h
      obtain rfl := Host.Outcome.next.inj h
      exact .inl hs
  | wr32 a v =>
    cases ha : accepted .b32 a with
    | false =>
      rw [access_wr32_busError s v ha] at h
      obtain rfl := Host.Outcome.next.inj h
      exact .inl hs
    | true =>
      rw [access_wr32 s v ha] at h
      obtain ⟨u, hu, rfl⟩ := mapNext_eq_next _ _ _ h
      rcases writeReg_keeps_sticky hu hs with hsticky | ⟨hr, hv⟩ | ⟨hr, hv⟩
      · exact .inl hsticky
      · exact .inr (.inr (.inl ⟨v, by rw [windowReg_eq_status hr], hv⟩))
      · exact .inr (.inr (.inr ⟨v, by rw [windowReg_eq_ctrl hr], hv⟩))
  | _ => cases h; exact .inl hs

/-- Settles O19: what a command leaves in STATUS follows from O10's change carried through `issue`. -/
theorem statusRegister : Obligations.StatusRegister :=
  ⟨⟨rfl, rfl, rfl, rfl, rfl, rfl⟩,
   Status.getLsbD_toWord,
   fun w s e => issue_setErr w e s,
   fun _ _ _ => issue_sticky,
   fun _ _ => accessLeaves_wr32 rfl rfl,
   fun _ _ _ => access_keeps_sticky,
   fun s => hostRead_b32 s rfl,
   rfl⟩

/-! ## What a command that ends in a next state leaves alone -/

/-- The next state, if there is one, satisfies `P`. -/
def NextSatisfies (P : State → Prop) : Outcome → Prop
  | .next t => P t
  | .fault _ => True
  | .refused _ => True

/-- To show something of the next state of a command, show it of every outcome `exec_outcome` lists. -/
theorem exec_next {P : State → Prop} {i : Instr} {s t : State}
    (hP : ∀ o, CommandOutcome i s o → NextSatisfies P o) (h : exec i s = .next t) : P t := by
  have hsat := hP _ (exec_outcome i s)
  rwa [h] at hsat

/-- What no command writes does not depend on STATUS, RESULT, the contexts and BUF. -/
theorem Untouched.of_update (s : State) (status : Status) (result : DWord) (ctx : List (Option Crc)) (buf : Memory) :
    Untouched s { s with status := status, result := result, ctx := ctx, buf := buf } :=
  ⟨rfl, rfl, rfl, rfl, rfl, rfl, rfl, rfl, rfl⟩

theorem CommandOutcome.untouched {i : Instr} {s : State} {o : Outcome} (h : CommandOutcome i s o) :
    NextSatisfies (Untouched s) o := by
  cases h with
  | rawFault => trivial
  | _ => exact .of_update s _ _ _ _

theorem exec_untouched {i : Instr} {s t : State} (h : exec i s = .next t) : Untouched s t :=
  exec_next (fun _ ho => ho.untouched) h

theorem CommandOutcome.result_kept {i : Instr} {s : State} {o : Outcome} (h : CommandOutcome i s o) :
    NextSatisfies (fun t => returnsValue i = false ∨ t.status.err ≠ .ok → t.result = s.result) o := by
  cases h with
  | digest _ _ _ hv => exact fun hor => (hor.resolve_left (by simp [hv]) rfl).elim
  | value _ hv => exact fun hor => (hor.resolve_left (by simp [hv]) rfl).elim
  | rawFault => trivial
  | _ => exact fun _ => rfl

theorem exec_result_kept {i : Instr} {s t : State} (h : exec i s = .next t)
    (hi : returnsValue i = false ∨ t.status.err ≠ .ok) : t.result = s.result :=
  exec_next (fun _ ho => ho.result_kept) h hi

/-- What a command other than a construction does to context d: nothing, or CRC.INIT or CRC.UPD of it changes its REG. -/
def ContextKept (i : Instr) (s : State) (d : Nat) (t : State) : Prop :=
  t.context d = s.context d ∨
    ∃ k k', (i = .crcInit d ∨ i = .crcUpd d) ∧ s.context d = some k ∧ t.context d = some k' ∧ SameButReg k k'

theorem CommandOutcome.context_kept {i : Instr} {s : State} {o : Outcome} (h : CommandOutcome i s o)
    (hi : constructs i = false) (d : Nat) : NextSatisfies (ContextKept i s d) o := by
  cases h with
  | construction _ _ _ hcons => simp [hi] at hcons
  | register c k k' hreg _ hk same =>
    by_cases hd : d = c
    · subst hd
      exact .inr ⟨k, k', hreg, hk, State.context_setContext_same s d k' (s.lt_of_context d k hk), same⟩
    · exact .inl (State.context_setContext_other s c d k' hd)
  | rawFault => trivial
  | _ => exact .inl rfl

/-! ## ARG0..ARG3 and RESULT (10_state.md R25, R26) -/

/-- Settles O20, by the map of the register region and the frame of every command. -/
theorem argRegisters : Obligations.ArgRegisters := by
  refine ⟨fun s v => ?_, fun s => ?_, fun _ _ _ => exec_untouched, rfl, rfl, rfl, rfl⟩
  · refine ⟨?_, ?_, ?_, ?_, ?_, ?_, ?_, ?_⟩ <;> exact accessLeaves_wr32 rfl rfl
  · refine ⟨?_, ?_, ?_, ?_, ?_, ?_, ?_, ?_⟩ <;> exact hostRead_b32 s rfl

/-- Settles O21: of a command's outcomes only those with a value write RESULT, and they end with ERR = 0. -/
theorem resultRegister : Obligations.ResultRegister :=
  ⟨fun _ _ _ => exec_result_kept,
   fun _ _ => ⟨accessLeaves_wr32 rfl rfl, accessLeaves_wr32 rfl rfl⟩,
   fun s => ⟨hostRead_b32 s rfl, hostRead_b32 s rfl⟩,
   rfl⟩

/-! ## ID, CAPS and BUFSZ (10_state.md R23, R24) -/

theorem getLsbD_capsWord (c : Config) (j : Nat) :
    (capsWord c).getLsbD j =
      if j < 5 then c.numCtx.testBit j else decide (j = 8) && decide (c.nativeEndian = .big) := by
  have hbig : c.nativeEndian.bit = decide (c.nativeEndian = .big) := by cases c.nativeEndian <;> rfl
  rw [capsWord, BitVec.getLsbD_or, BitVec.getLsbD_setWidth, BitVec.getLsbD_shiftLeft, BitVec.getLsbD_setWidth,
    BitVec.getLsbD_ofBool, BitVec.getLsbD_ofNat, hbig]
  by_cases hj : j < 5
  · simp [hj, show j < 32 by omega, show j < 8 by omega]
  · by_cases h8 : j = 8
    · simp [h8]
    · simp [hj, h8]; omega

theorem toNat_capsWord_numCtx {c : Config} (hc : c.Legal) : ((capsWord c).extractLsb' 0 5).toNat = c.numCtx := by
  have hbits : (capsWord c).extractLsb' 0 5 = BitVec.ofNat 5 c.numCtx := by
    apply BitVec.eq_of_getLsbD_eq
    intro j hj
    simp only [BitVec.getLsbD_extractLsb', getLsbD_capsWord, BitVec.getLsbD_ofNat, Nat.zero_add, hj, if_true]
  obtain ⟨_, hle, _⟩ := hc
  rw [hbits, BitVec.toNat_ofNat, Nat.mod_eq_of_lt (by omega)]

theorem toNat_bufszWord {c : Config} (hc : c.Legal) : (bufszWord c).toNat = c.bufSize := by
  obtain ⟨_, _, _, hle, _⟩ := hc
  rw [bufszWord, BitVec.toNat_ofNat, Nat.mod_eq_of_lt (by omega)]

/-- Settles O22, by the bits of CAPS and the bounds of a legal configuration. -/
theorem discoveryRegisters : Obligations.DiscoveryRegisters := by
  intro s hs
  refine ⟨hostRead_b32 s rfl, ⟨capsWord s.cfg, hostRead_b32 s rfl, toNat_capsWord_numCtx hs, ?_, fun j hj h8 => ?_⟩,
    ⟨bufszWord s.cfg, hostRead_b32 s rfl, toNat_bufszWord hs⟩,
    fun v => ⟨accessLeaves_wr32 rfl rfl, accessLeaves_wr32 rfl rfl, accessLeaves_wr32 rfl rfl⟩⟩
  · rw [getLsbD_capsWord]; rfl
  · simp [getLsbD_capsWord, Nat.not_lt.mpr hj, h8]

/-! ## Reserved offsets and CTRL (10_state.md R32, R38) -/

/-- Settles O26: no register stands at a reserved offset. -/
theorem reservedOffsetsReadZero : Obligations.ReservedOffsetsReadZero := by
  intro s a v hlt hal hres
  have ha := accepted_b32 hlt hal
  have hreg := windowReg_reserved hres
  exact ⟨by rw [hostRead_b32 s ha, hreg]; rfl, accessLeaves_wr32 ha (by rw [hreg]; rfl)⟩

@[simp] theorem State.context_softReset (s : State) (c : Nat) : s.softReset.context c = none := by
  simp only [State.context, State.softReset_ctx, List.getElem?_replicate]
  split <;> rfl

theorem writeReg_ctrl (s : State) (v : Word) :
    writeReg s .ctrl v = .next (if v.getLsbD 0 then s.softReset else s) := rfl

/-- Settles O28, by the field lemmas of the soft reset. -/
theorem softResetKeepsBuf : Obligations.SoftResetKeepsBuf := by
  refine fun s v => ⟨hostRead_b32 s rfl, fun hv => ?_, fun hv => ⟨s.softReset, ?_, ?_⟩⟩
  · exact accessLeaves_wr32 rfl ((writeReg_ctrl s v).trans (by rw [hv]; rfl))
  · exact accessLeaves_wr32 rfl ((writeReg_ctrl s v).trans (by rw [hv]; rfl))
  · exact ⟨rfl, rfl, rfl, rfl, rfl, rfl, rfl, s.context_softReset, by simp, rfl, s.byteAt_softReset, rfl⟩

/-! ## What a context keeps (10_state.md R29) -/

/-- Settles O41: a context that is not constructed is as before, or has another REG by CRC.INIT or CRC.UPD of it. -/
theorem parametersAndTableAreImmutable : Obligations.ParametersAndTableAreImmutable := by
  intro i s t h hi d
  have hkept : ContextKept i s d t := exec_next (fun _ ho => ho.context_kept hi d) h
  rcases hkept with hsame | ⟨k, k', hreg, hk, hk', same⟩
  · rw [hsame]
    cases s.context d with
    | none => trivial
    | some k => cases k <;> exact ⟨rfl, rfl, fun _ _ => rfl⟩
  · have hfree {P : Prop} : i ≠ .crcInit d → i ≠ .crcUpd d → P := fun hinit hupd => (hreg.elim hinit hupd).elim
    rw [hk, hk']
    match k, k', same with
    | .w16 _, .w16 _, ⟨hparams, htable⟩ => exact ⟨hparams, htable, hfree⟩
    | .w32 _, .w32 _, ⟨hparams, htable⟩ => exact ⟨hparams, htable, hfree⟩

end Sys2Proof.Machine

/-! SUPPORT. The host access family (20_memory.md): what one step takes and gives, bus errors, the BUF region, reads, and
absolute addresses. -/
namespace Sys2Proof.Machine

/-! ## One step, one access (20_memory.md R65) -/

/-- From s to t the configuration and the pending accesses are kept, and at most one answer is added to the earlier ones. -/
structure AnswersAtMostOnce (s t : State) : Prop where
  cfg : t.cfg = s.cfg
  pending : t.pending = s.pending
  replies : ∃ new, t.replies = new ++ s.replies ∧ new.length ≤ 1

theorem AnswersAtMostOnce.of_unanswered {s t : State} (hcfg : t.cfg = s.cfg) (hpending : t.pending = s.pending)
    (hreplies : t.replies = s.replies) : AnswersAtMostOnce s t :=
  ⟨hcfg, hpending, [], hreplies, Nat.zero_le 1⟩

theorem AnswersAtMostOnce.of_answer {s t : State} (r : Reply) (hcfg : t.cfg = s.cfg) (hpending : t.pending = s.pending)
    (hreplies : t.replies = s.replies) : AnswersAtMostOnce s (t.answer r) :=
  ⟨hcfg, hpending, [r], congrArg (r :: ·) hreplies, Nat.le_refl 1⟩

/-- Issuing a word writes LASTCMD, and then nothing that no command writes. -/
theorem issue_untouched {w : Word} {s t : State} (h : issue w s = .next t) : Untouched { s with lastcmd := w } t := by
  rcases issue_cases w s with ⟨i, _, ho⟩ | ⟨_, _, ho⟩
  · exact exec_untouched (ho.symm.trans h)
  · obtain rfl := Host.Outcome.next.inj (ho.symm.trans h)
    exact .of_update _ _ _ _ _

theorem AccessOutcome.answersAtMostOnce {s : State} {o : Outcome} (h : AccessOutcome s o) :
    NextSatisfies (AnswersAtMostOnce s) o := by
  cases h with
  | answered r => exact .of_answer r rfl rfl rfl
  | args => exact .of_answer .done rfl rfl rfl
  | status => exact .of_answer .done rfl rfl rfl
  | softReset => exact .of_answer .done rfl rfl rfl
  | byte => exact .of_answer .done rfl rfl rfl
  | issued w =>
    cases ho : issue w s with
    | next t =>
      have hkept := issue_untouched ho
      exact .of_answer .done hkept.cfg hkept.pending hkept.replies
    | fault => trivial
    | refused => trivial
  | hardReset => exact .of_unanswered rfl rfl rfl

theorem access_answersAtMostOnce {op : HostOp} {s t : State} (h : access op s = .next t) : AnswersAtMostOnce s t := by
  have hsat := (access_outcome op s).answersAtMostOnce
  rwa [h] at hsat

theorem step_of_pending_nil {s : State} (h : s.pending = []) : step s = .next s := by
  simp [step, h]

/-- Settles O7: a step that does not wait is one access, and an access answers at most once. -/
theorem stepAcceptsOneAccess : Obligations.StepAcceptsOneAccess := by
  refine ⟨fun _ _ _ => step_of_pending, fun _ => step_of_pending_nil, fun s t h => ?_⟩
  rcases step_cases s with ⟨hp, ho⟩ | ⟨op, ops, hp, ho⟩
  · obtain rfl := Host.Outcome.next.inj (ho.symm.trans h)
    exact ⟨rfl, by rw [hp]; rfl, [], rfl, Nat.zero_le 1⟩
  · obtain ⟨hcfg, hpending, hreplies⟩ := access_answersAtMostOnce (ho.symm.trans h)
    exact ⟨hcfg, by rw [hpending, hp]; rfl, hreplies⟩

/-! ## Bus errors (20_memory.md R61, R62) -/

/-- The accesses the window does not accept, region by region. -/
theorem accepted_eq_false_iff {size : AccessSize} {a : Offset} :
    accepted size a = false ↔ if a.toNat < 0x1000 then size ≠ .b32 ∨ a.toNat % 4 ≠ 0 else size ≠ .b8 := by
  unfold accepted
  split
  · simp [imp_iff_not_or]
  · simp

theorem access_rd (size : AccessSize) (a : Offset) (s : State) :
    access (.rd size a) s = .next (s.answer (hostRead s size a)) := rfl

theorem hostRead_busError (s : State) {size : AccessSize} {a : Offset} (ha : accepted size a = false) :
    hostRead s size a = .busError a size := by
  simp [hostRead, ha]

theorem access_wr8_busError (s : State) {a : Offset} (v : Byte) (ha : accepted .b8 a = false) :
    access (.wr8 a v) s = .next (s.answer (.busError a .b8)) := by
  simp [access, busError, ha]

theorem accepted_b8_of_lt {a : Offset} (hlt : a.toNat < 0x1000) : accepted .b8 a = false := by
  simp [accepted, hlt]

theorem accepted_b32_of_ge_or_unaligned {a : Offset} (h : 0x1000 ≤ a.toNat ∨ a.toNat % 4 ≠ 0) :
    accepted .b32 a = false := by
  rw [accepted_eq_false_iff]
  split
  · exact .inr (h.resolve_left (by omega))
  · decide

/-- Settles O24: no region accepts 16 or 64 bits, and what it does not accept is answered with a bus error. -/
theorem unacceptedAccessesAreBusErrors : Obligations.UnacceptedAccessesAreBusErrors := by
  refine fun s a => ⟨fun size h => ?_, fun _ => rfl, fun _ => rfl, fun v hlt => ?_, fun v h => ?_⟩
  · rw [access_rd, hostRead_busError s (accepted_eq_false_iff.mpr h)]; rfl
  · exact access_wr8_busError s v (accepted_b8_of_lt hlt)
  · exact access_wr32_busError s v (accepted_b32_of_ge_or_unaligned h)

/-! ## The BUF region (20_memory.md R61; 10_state.md R38) -/

section BufRegion

variable (s : State) {a : Offset} (v : Byte)

theorem accepted_b8 (hge : 0x1000 ≤ a.toNat) : accepted .b8 a = true := by
  simp [accepted, Nat.not_lt.mpr hge]

theorem hostRead_b8 (hge : 0x1000 ≤ a.toNat) : hostRead s .b8 a = .data8 (readBuf s a) := by
  simp [hostRead, accepted_b8 hge, Nat.not_lt.mpr hge]

theorem accessLeaves_wr8 (hge : 0x1000 ≤ a.toNat) : AccessLeaves (.wr8 a v) s (writeBuf s a v) :=
  ⟨.done, by simp, by simp [access, accepted_b8 hge]⟩

theorem readBuf_inside (h : bufOffset a < s.cfg.bufSize) : readBuf s a = s.byteAt (bufOffset a) := if_pos h

theorem readBuf_beyond (h : s.cfg.bufSize ≤ bufOffset a) : readBuf s a = 0 := if_neg (Nat.not_lt.mpr h)

theorem writeBuf_inside (h : bufOffset a < s.cfg.bufSize) : writeBuf s a v = s.bufWrite (bufOffset a) [v] := if_pos h

theorem writeBuf_beyond (h : s.cfg.bufSize ≤ bufOffset a) : writeBuf s a v = s := if_neg (Nat.not_lt.mpr h)

theorem State.byteAt_bufWrite_singleton (off : Nat) : (s.bufWrite off [v]).byteAt off = v :=
  s.byteAt_bufWrite_inside off [v] 0 Nat.one_pos

end BufRegion

/-- Settles O25, by the read and write rules of the BUF region and read-after-write of BUF. -/
theorem hostReachesBufBytes : Obligations.HostReachesBufBytes := by
  intro s a v hge
  constructor
  · intro (hin : bufOffset a < s.cfg.bufSize)
    refine ⟨(hostRead_b8 s hge).trans (congrArg _ (readBuf_inside s hin)), s.bufWrite (bufOffset a) [v], ?_, rfl,
      s.byteAt_bufWrite_singleton v _, s.byteAt_bufWrite_outside _ [v]⟩
    exact writeBuf_inside s v hin ▸ accessLeaves_wr8 s v hge
  · intro (hbeyond : s.cfg.bufSize ≤ bufOffset a)
    refine ⟨(hostRead_b8 s hge).trans (congrArg _ (readBuf_beyond s hbeyond)), ?_⟩
    simpa only [writeBuf_beyond s v hbeyond] using accessLeaves_wr8 s v hge

/-! ## Reads (20_memory.md R63) -/

/-- Settles O23: `access` answers a read and does nothing else. -/
theorem hostReadsHaveNoSideEffect : Obligations.HostReadsHaveNoSideEffect := access_rd

/-! ## Absolute host addresses (20_memory.md R50, R60) -/

theorem windowOffset_base_add (c : Config) (a : Offset) : windowOffset c (c.base + a.toNat) = some a := by
  have hlt : a.toNat < 0x10000 := a.isLt
  rw [windowOffset, if_pos (by omega), Nat.add_sub_cancel_left, BitVec.ofNat_toNat, BitVec.setWidth_eq]

theorem windowOffset_outside (c : Config) {addr : Nat} (h : addr < c.base ∨ c.base + 0x10000 ≤ addr) :
    windowOffset c addr = none :=
  if_neg (by omega)

/-- Settles O27: every access goes through `windowOffset`, which has a value in the window only. -/
theorem hostAddressesMapThroughBase : Obligations.HostAddressesMapThroughBase := by
  refine fun c addr size v b => ⟨fun a haddr => ?_, fun h => ?_⟩
  · subst haddr
    simp [memRead, memWrite32, memWrite8, windowOffset_base_add]
  · simp [memRead, memWrite32, memWrite8, windowOffset_outside c h]

end Sys2Proof.Machine

/-! SUPPORT. The encoding family (30_encoding.md): the rows of the opcode map, the fields of a word, decoding and encoding, the
illegal words, the accesses of `arg<i>`. -/
namespace Sys2Proof

/-! ## The rows of the opcode map (30_encoding.md R89, R90) -/

theorem Format.mask_covers_op (f : Format) : f.mask &&& 0xFF = 0xFF := by cases f <;> rfl

theorem Row.op_and_ff : ∀ r ∈ opcodeTable, r.op &&& 0xFF = r.op := by decide

theorem Row.eq_of_op_eq : ∀ r ∈ opcodeTable, ∀ q ∈ opcodeTable, r.op = q.op → r = q := by decide

theorem Row.eq_of_mnemonic_eq : ∀ r ∈ opcodeTable, ∀ q ∈ opcodeTable, r.mnemonic = q.mnemonic → r = q := by decide

/-- A row's opcode is OP of every word that matches the row. -/
theorem Row.op_eq_of_matches {r : Row} (hr : r ∈ opcodeTable) {w : Word} (hw : w &&& r.format.mask = r.op) :
    r.op = w &&& 0xFF :=
  calc r.op
    _ = w &&& r.format.mask &&& 0xFF := by rw [hw, Row.op_and_ff r hr]
    _ = w &&& 0xFF := by rw [BitVec.and_assoc, r.format.mask_covers_op]

/-- Settles O3: every mask covers OP, and no two rows have the same OP. -/
theorem opcodeRowsNeverOverlap : Obligations.OpcodeRowsNeverOverlap := by
  intro w r q hr hq hrw hqw
  refine Row.eq_of_op_eq r hr q hq ?_
  rw [Row.op_eq_of_matches hr hrw, Row.op_eq_of_matches hq hqw]

theorem Row.accepts_iff {r : Row} {w : Word} : r.accepts w = true ↔ w &&& r.format.mask = r.op := decide_eq_true_iff

theorem decode_of_matches {r : Row} (hr : r ∈ opcodeTable) {w : Word} (hw : w &&& r.format.mask = r.op) :
    decode w = decodeFields r.mnemonic w := by
  have hsome : (opcodeTable.find? fun q => q.accepts w).isSome :=
    List.find?_isSome.mpr ⟨r, hr, Row.accepts_iff.mpr hw⟩
  obtain ⟨q, hq⟩ := Option.isSome_iff_exists.mp hsome
  have hqw : q.accepts w = true := (List.find?_eq_some_iff_append.mp hq).1
  obtain rfl := opcodeRowsNeverOverlap w q r (List.mem_of_find?_eq_some hq) hr (Row.accepts_iff.mp hqw) hw
  simp [decode, hq]

theorem decode_of_no_match {w : Word} (h : ∀ r ∈ opcodeTable, w &&& r.format.mask ≠ r.op) :
    decode w = .illegal (rejection w) := by
  have hnone : (opcodeTable.find? fun q => q.accepts w) = none :=
    List.find?_eq_none.mpr fun r hr => mt Row.accepts_iff.mp (h r hr)
  simp [decode, hnone]

/-- What `decode` can do (30_encoding.md R90). -/
theorem decode_cases (w : Word) :
    (∃ r ∈ opcodeTable, w &&& r.format.mask = r.op ∧ decode w = decodeFields r.mnemonic w) ∨
    ((∀ r ∈ opcodeTable, w &&& r.format.mask ≠ r.op) ∧ decode w = .illegal (rejection w)) := by
  by_cases h : ∃ r ∈ opcodeTable, w &&& r.format.mask = r.op
  · obtain ⟨r, hr, hw⟩ := h
    exact .inl ⟨r, hr, hw, decode_of_matches hr hw⟩
  · push Not at h
    exact .inr ⟨h, decode_of_no_match h⟩

/-! ## The bits of a placed field (30_encoding.md R81) -/

theorem getLsbD_eq_false_of_opcode {op : Word} (hop : op.toNat < 2 ^ 8) {j : Nat} (hj : 8 ≤ j) : op.getLsbD j = false :=
  Nat.testBit_lt_two_pow (Nat.lt_of_lt_of_le hop (Nat.pow_le_pow_right Nat.two_pos hj))

theorem getLsbD_placeBit (b : Bool) {k : Nat} (hk : k < 32) (j : Nat) :
    (placeBit b k).getLsbD j = (decide (j = k) && b) := by
  simp only [placeBit, BitVec.getLsbD_shiftLeft, BitVec.getLsbD_setWidth, BitVec.getLsbD_ofBool]
  by_cases hj : j = k
  · simp [hj, hk]
  · have hne : k ≤ j → j - k ≠ 0 := by omega
    simp +contextual [hj, hne]

theorem getLsbD_placeNibble (v : BitVec 4) {k : Nat} (hk : k + 4 ≤ 32) (j : Nat) :
    (placeNibble v k).getLsbD j = (decide (k ≤ j) && v.getLsbD (j - k)) := by
  simp only [placeNibble, BitVec.getLsbD_shiftLeft, BitVec.getLsbD_setWidth]
  by_cases hj : j < k + 4
  · by_cases hkj : k ≤ j
    · simp [show j < 32 by omega, show ¬ j < k by omega, show j - k < 32 by omega, hkj]
    · simp [hkj]
  · simp [BitVec.getLsbD_of_ge v (j - k) (by omega)]

theorem placeBit_getLsbD (w : Word) {k : Nat} (hk : k < 32) : placeBit (w.getLsbD k) k = w &&& placeBit true k := by
  refine BitVec.eq_of_getLsbD_eq fun j _ => ?_
  rw [BitVec.getLsbD_and, getLsbD_placeBit _ hk, getLsbD_placeBit _ hk]
  by_cases hj : j = k
  · simp [hj]
  · simp [hj]

theorem placeNibble_extractLsb' (w : Word) {k : Nat} (hk : k + 4 ≤ 32) :
    placeNibble (w.extractLsb' k 4) k = w &&& placeNibble (.allOnes 4) k := by
  refine BitVec.eq_of_getLsbD_eq fun j _ => ?_
  rw [BitVec.getLsbD_and, getLsbD_placeNibble _ hk, getLsbD_placeNibble _ hk, BitVec.getLsbD_extractLsb',
    BitVec.getLsbD_allOnes]
  by_cases hkj : k ≤ j
  · simp [hkj, Bool.and_comm]
  · simp [hkj]

/-! ## What a field names (30_encoding.md R83-R85) -/

theorem CrcWidth.bit_fieldWsel (w : Word) : (fieldWsel w).bit = w.getLsbD 12 := by
  unfold fieldWsel; cases w.getLsbD 12 <;> rfl

theorem Endian.bit_fieldE (w : Word) : (fieldE w).bit = w.getLsbD 12 := by
  unfold fieldE; cases w.getLsbD 12 <;> rfl

theorem Tier.bit_fieldT (w : Word) : (fieldT w).bit = w.getLsbD 13 := by
  unfold fieldT; cases w.getLsbD 13 <;> rfl

theorem ctxFits_fieldCtx (w : Word) : ctxFits (fieldCtx w) = true := decide_eq_true (BitVec.isLt _)

@[simp] theorem Variant.ofVid_vid (v : Variant) : Variant.ofVid v.vid = some v := by cases v <;> rfl

@[simp] theorem Selector.ofSel_sel (sel : Selector) : Selector.ofSel sel.sel = some sel := by cases sel <;> rfl

theorem Variant.vid_of_ofVid : ∀ (vid : BitVec 4) (v : Variant), Variant.ofVid vid = some v → v.vid = vid := by
  intro vid v; revert vid; cases v <;> decide

theorem Selector.sel_of_ofSel : ∀ (n : BitVec 4) (sel : Selector), Selector.ofSel n = some sel → sel.sel = n := by
  intro n sel; revert n; cases sel <;> decide

theorem Variant.ofVid_eq_none_iff : ∀ vid : BitVec 4, Variant.ofVid vid = none ↔ 10 ≤ vid.toNat := by decide

theorem Selector.ofSel_eq_none_iff : ∀ n : BitVec 4, Selector.ofSel n = none ↔ 6 ≤ n.toNat := by decide

/-! ## The fields of a command's word are the command's (O1) -/

section EncodedFields

theorem extractLsb'_opcode {op : Word} (hop : op.toNat < 2 ^ 8) {k : Nat} (hk : 8 ≤ k) : op.extractLsb' k 4 = 0#4 := by
  refine BitVec.eq_of_getLsbD_eq fun j _ => ?_
  simp [getLsbD_eq_false_of_opcode hop (show 8 ≤ k + j by omega)]

theorem extractLsb'_placeNibble (v : BitVec 4) {k : Nat} (hk : k + 4 ≤ 32) : (placeNibble v k).extractLsb' k 4 = v := by
  refine BitVec.eq_of_getLsbD_eq fun j hj => ?_
  simp [getLsbD_placeNibble v hk, hj]

theorem extractLsb'_placeNibble_disjoint (v : BitVec 4) {k i : Nat} (hk : k + 4 ≤ 32) (h : i + 4 ≤ k ∨ k + 4 ≤ i) :
    (placeNibble v k).extractLsb' i 4 = 0#4 := by
  refine BitVec.eq_of_getLsbD_eq fun j hj => ?_
  rw [BitVec.getLsbD_extractLsb', getLsbD_placeNibble v hk]
  rcases h with h | h
  · simp [show ¬ k ≤ i + j by omega]
  · simp [BitVec.getLsbD_of_ge v (i + j - k) (by omega)]

theorem extractLsb'_placeBit_disjoint (b : Bool) {k i : Nat} (hk : k < 32) (h : k < i ∨ i + 4 ≤ k) :
    (placeBit b k).extractLsb' i 4 = 0#4 := by
  refine BitVec.eq_of_getLsbD_eq fun j hj => ?_
  simp [getLsbD_placeBit b hk, show i + j ≠ k by omega]

theorem fieldWsel_of_getLsbD {w : Word} {width : CrcWidth} (h : w.getLsbD 12 = width.bit) : fieldWsel w = width := by
  rw [fieldWsel, h]; cases width <;> rfl

theorem fieldE_of_getLsbD {w : Word} {e : Endian} (h : w.getLsbD 12 = e.bit) : fieldE w = e := by
  rw [fieldE, h]; cases e <;> rfl

theorem fieldT_of_getLsbD {w : Word} {t : Tier} (h : w.getLsbD 13 = t.bit) : fieldT w = t := by
  rw [fieldT, h]; cases t <;> rfl

theorem fieldCtx_of_extractLsb' {w : Word} {ctx : Nat} (hctx : ctxFits ctx = true)
    (h : w.extractLsb' 8 4 = BitVec.ofNat 4 ctx) : fieldCtx w = ctx := by
  have hlt : ctx < 2 ^ 4 := of_decide_eq_true hctx
  rw [fieldCtx, h, BitVec.toNat_ofNat, Nat.mod_eq_of_lt hlt]

theorem getLsbD_placeK (ctx : Nat) (width : CrcWidth) (ri ro bs : Bool) {j : Nat} (hj : 12 ≤ j) :
    (placeK ctx width ri ro bs).getLsbD j =
      (decide (j = 12) && width.bit || decide (j = 13) && ri || decide (j = 14) && ro || decide (j = 15) && bs) := by
  have hctx : (placeCtx ctx).getLsbD j = false := by
    rw [placeCtx, getLsbD_placeNibble _ (by decide), BitVec.getLsbD_of_ge _ _ (by omega), Bool.and_false]
  simp only [placeK, BitVec.getLsbD_or, hctx, Bool.false_or, getLsbD_placeBit _ (show 12 < 32 by decide),
    getLsbD_placeBit _ (show 13 < 32 by decide), getLsbD_placeBit _ (show 14 < 32 by decide),
    getLsbD_placeBit _ (show 15 < 32 by decide)]

theorem extractLsb'_placeK (ctx : Nat) (width : CrcWidth) (ri ro bs : Bool) :
    (placeK ctx width ri ro bs).extractLsb' 8 4 = BitVec.ofNat 4 ctx := by
  simp [placeK, placeCtx, BitVec.extractLsb'_or, extractLsb'_placeNibble, extractLsb'_placeBit_disjoint]

theorem getLsbD_placeB (e : Endian) (t : Tier) (j : Nat) :
    (placeB e t).getLsbD j = (decide (j = 12) && e.bit || decide (j = 13) && t.bit) := by
  simp only [placeB, BitVec.getLsbD_or, getLsbD_placeBit _ (show 12 < 32 by decide),
    getLsbD_placeBit _ (show 13 < 32 by decide)]

variable {op : Word} (hop : op.toNat < 2 ^ 8) {ctx : Nat}
include hop

theorem getLsbD_or_opcode (x : Word) {j : Nat} (hj : 8 ≤ j) : (op ||| x).getLsbD j = x.getLsbD j := by
  rw [BitVec.getLsbD_or, getLsbD_eq_false_of_opcode hop hj, Bool.false_or]

theorem extractLsb'_or_opcode (x : Word) {k : Nat} (hk : 8 ≤ k) : (op ||| x).extractLsb' k 4 = x.extractLsb' k 4 := by
  rw [BitVec.extractLsb'_or, extractLsb'_opcode hop hk, BitVec.zero_or]

theorem fieldCtx_or_opcode (hctx : ctxFits ctx = true) {x : Word} (hx : x.extractLsb' 8 4 = BitVec.ofNat 4 ctx) :
    fieldCtx (op ||| x) = ctx :=
  fieldCtx_of_extractLsb' hctx (by rw [extractLsb'_or_opcode hop x (by decide), hx])

theorem fieldCtx_wordC (hctx : ctxFits ctx = true) : fieldCtx (op ||| placeCtx ctx) = ctx :=
  fieldCtx_or_opcode hop hctx (extractLsb'_placeNibble _ (by decide))

theorem fieldCtx_wordV (hctx : ctxFits ctx = true) (n : BitVec 4) :
    fieldCtx (op ||| placeCtx ctx ||| placeNibble n 16) = ctx := by
  rw [BitVec.or_assoc]
  refine fieldCtx_or_opcode hop hctx ?_
  rw [BitVec.extractLsb'_or, placeCtx, extractLsb'_placeNibble _ (by decide),
    extractLsb'_placeNibble_disjoint n (by decide) (by decide), BitVec.or_zero]

theorem fieldVid_wordV (ctx : Nat) (n : BitVec 4) : fieldVid (op ||| placeCtx ctx ||| placeNibble n 16) = n := by
  rw [fieldVid, BitVec.or_assoc, extractLsb'_or_opcode hop _ (by decide), BitVec.extractLsb'_or, placeCtx,
    extractLsb'_placeNibble_disjoint _ (by decide) (by decide), extractLsb'_placeNibble n (by decide),
    BitVec.zero_or]

theorem fieldWsel_wordR (width : CrcWidth) : fieldWsel (op ||| placeBit width.bit 12) = width :=
  fieldWsel_of_getLsbD (by rw [getLsbD_or_opcode hop _ (by decide), getLsbD_placeBit _ (by decide)]; simp)

section FormatK

variable (ctx : Nat) (width : CrcWidth) (ri ro bs : Bool)

theorem fieldCtx_wordK (hctx : ctxFits ctx = true) : fieldCtx (op ||| placeK ctx width ri ro bs) = ctx :=
  fieldCtx_or_opcode hop hctx (extractLsb'_placeK ctx width ri ro bs)

theorem fieldWsel_wordK : fieldWsel (op ||| placeK ctx width ri ro bs) = width :=
  fieldWsel_of_getLsbD (by rw [getLsbD_or_opcode hop _ (by decide), getLsbD_placeK _ _ _ _ _ (by decide)]; simp)

theorem fieldRi_wordK : fieldRi (op ||| placeK ctx width ri ro bs) = ri := by
  rw [fieldRi, getLsbD_or_opcode hop _ (by decide), getLsbD_placeK _ _ _ _ _ (by decide)]; simp

theorem fieldRo_wordK : fieldRo (op ||| placeK ctx width ri ro bs) = ro := by
  rw [fieldRo, getLsbD_or_opcode hop _ (by decide), getLsbD_placeK _ _ _ _ _ (by decide)]; simp

theorem fieldBs_wordK : fieldBs (op ||| placeK ctx width ri ro bs) = bs := by
  rw [fieldBs, getLsbD_or_opcode hop _ (by decide), getLsbD_placeK _ _ _ _ _ (by decide)]; simp

end FormatK

theorem fieldE_wordB (e : Endian) (t : Tier) : fieldE (op ||| placeB e t) = e :=
  fieldE_of_getLsbD (by rw [getLsbD_or_opcode hop _ (by decide), getLsbD_placeB]; simp)

theorem fieldT_wordB (e : Endian) (t : Tier) : fieldT (op ||| placeB e t) = t :=
  fieldT_of_getLsbD (by rw [getLsbD_or_opcode hop _ (by decide), getLsbD_placeB]; simp)

end EncodedFields

namespace Laws

open InItsRow in
/-- The word of every command is in the command's own row. -/
theorem encode_inItsRow : ∀ i : Instr, InItsRow.Statement i
  | .nop => nop
  | .crcCfg c w ri ro bs => crcCfg c w ri ro bs
  | .crcCfgt c w ri ro bs => crcCfgt c w ri ro bs
  | .crcVar c v => crcVar c v
  | .crcInit c => crcInit c
  | .crcUpd c => crcUpd c
  | .crcFin c => crcFin c
  | .crcCmp c => crcCmp c
  | .crcRd c sel => crcRd c sel
  | .crcRfl w => crcRfl w
  | .encI16 e t => encI16 e t
  | .encI32 e t => encI32 e t
  | .encI64 e t => encI64 e t
  | .encF32 e t => encF32 e t
  | .encF64 e t => encF64 e t
  | .decI16 e t => decI16 e t
  | .decI32 e t => decI32 e t
  | .decI64 e t => decI64 e t
  | .decF32 e t => decF32 e t
  | .decF64 e t => decF64 e t

theorem rowOf_mem (i : Instr) : rowOf i ∈ opcodeTable := (encode_inItsRow i).1

theorem encode_matches_rowOf (i : Instr) : encode i &&& (rowOf i).format.mask = (rowOf i).op :=
  Row.accepts_iff.mp (encode_inItsRow i).2

end Laws

open Laws

theorem decodeFields_encode (i : Instr) (h : i.wellFormed = true) :
    decodeFields (rowOf i).mnemonic (encode i) = .command i := by
  cases i with
  | nop => rfl
  | crcCfg ctx width ri ro bs | crcCfgt ctx width ri ro bs =>
    have hctx : ctxFits ctx = true := h
    simp +decide only [rowOf, encode, decodeFields, fieldCtx_wordK, fieldWsel_wordK, fieldRi_wordK, fieldRo_wordK,
      fieldBs_wordK, hctx]
  | crcInit ctx | crcUpd ctx | crcFin ctx | crcCmp ctx =>
    have hctx : ctxFits ctx = true := h
    simp +decide only [rowOf, encode, decodeFields, fieldCtx_wordC, hctx]
  | crcVar ctx v =>
    have hctx : ctxFits ctx = true := h
    simp +decide only [rowOf, encode, decodeFields, fieldCtx_wordV, fieldVid_wordV, hctx, Variant.ofVid_vid]
  | crcRd ctx sel =>
    have hctx : ctxFits ctx = true := h
    simp +decide only [rowOf, encode, decodeFields, fieldCtx_wordV, fieldVid_wordV, hctx, Selector.ofSel_sel]
  | crcRfl width => simp +decide only [rowOf, encode, decodeFields, fieldWsel_wordR]
  | encI16 e t | encI32 e t | encI64 e t | encF32 e t | encF64 e t
  | decI16 e t | decI32 e t | decI64 e t | decF32 e t | decF64 e t =>
    simp +decide only [rowOf, encode, decodeFields, fieldE_wordB, fieldT_wordB]

/-- Settles O1: the word of a command is in the command's own row, and its fields are the command's. -/
theorem encodeThenDecodeReturnsCommand : Obligations.EncodeThenDecodeReturnsCommand := fun i h =>
  (decode_of_matches (rowOf_mem i) (encode_matches_rowOf i)).trans (decodeFields_encode i h)

/-! ## The fields of a word are all its bits outside the mask (O2) -/

section PlacedFields

variable (w : Word)

theorem placeCtx_fieldCtx : placeCtx (fieldCtx w) = w &&& placeNibble (.allOnes 4) 8 := by
  rw [placeCtx, fieldCtx, BitVec.ofNat_toNat, BitVec.setWidth_eq, placeNibble_extractLsb' w (by decide)]

theorem placeNibble_fieldVid : placeNibble (fieldVid w) 16 = w &&& placeNibble (.allOnes 4) 16 :=
  placeNibble_extractLsb' w (by decide)

theorem placeBit_fieldWsel : placeBit (fieldWsel w).bit 12 = w &&& placeBit true 12 := by
  rw [CrcWidth.bit_fieldWsel, placeBit_getLsbD w (by decide)]

theorem placedFields_c : placeCtx (fieldCtx w) = w &&& ~~~Format.c.mask :=
  (placeCtx_fieldCtx w).trans (congrArg (w &&& ·) (by decide))

theorem placedFields_k :
    placeK (fieldCtx w) (fieldWsel w) (fieldRi w) (fieldRo w) (fieldBs w) = w &&& ~~~Format.k.mask := by
  have hmask : ~~~Format.k.mask = placeNibble (.allOnes 4) 8 ||| placeBit true 12 ||| placeBit true 13 |||
      placeBit true 14 ||| placeBit true 15 := by decide
  rw [hmask, placeK, placeCtx_fieldCtx, placeBit_fieldWsel, fieldRi, fieldRo, fieldBs, placeBit_getLsbD w (by decide),
    placeBit_getLsbD w (by decide), placeBit_getLsbD w (by decide)]
  simp only [BitVec.and_or_distrib_left]

theorem placedFields_v : placeCtx (fieldCtx w) ||| placeNibble (fieldVid w) 16 = w &&& ~~~Format.v.mask := by
  rw [placeCtx_fieldCtx, placeNibble_fieldVid, ← BitVec.and_or_distrib_left]
  exact congrArg (w &&& ·) (by decide)

theorem placedFields_r : placeBit (fieldWsel w).bit 12 = w &&& ~~~Format.r.mask :=
  (placeBit_fieldWsel w).trans (congrArg (w &&& ·) (by decide))

theorem placedFields_b : placeB (fieldE w) (fieldT w) = w &&& ~~~Format.b.mask := by
  rw [placeB, Endian.bit_fieldE, Tier.bit_fieldT, placeBit_getLsbD w (by decide), placeBit_getLsbD w (by decide),
    ← BitVec.and_or_distrib_left]
  exact congrArg (w &&& ·) (by decide)

end PlacedFields

/-- The command read from a word's fields belongs to the row they were read for, and its encoding is that row's opcode and
the word's bits outside the mask. -/
theorem decodeFields_eq_command {m : Mnemonic} {w : Word} {i : Instr} (h : decodeFields m w = .command i) :
    (rowOf i).mnemonic = m ∧ encode i = (rowOf i).op ||| (w &&& ~~~(rowOf i).format.mask) ∧ i.wellFormed = true := by
  cases m with
  | nop =>
    cases h
    exact ⟨rfl, by simp [rowOf, encode, Format.mask], rfl⟩
  | crcCfg | crcCfgt =>
    cases h
    exact ⟨rfl, congrArg (_ ||| ·) (placedFields_k w), ctxFits_fieldCtx w⟩
  | crcInit | crcUpd | crcFin | crcCmp =>
    cases h
    exact ⟨rfl, congrArg (_ ||| ·) (placedFields_c w), ctxFits_fieldCtx w⟩
  | crcVar =>
    cases hv : Variant.ofVid (fieldVid w) with
    | none => simp [decodeFields, hv] at h
    | some v =>
      simp only [decodeFields, hv] at h
      cases h
      refine ⟨rfl, ?_, ctxFits_fieldCtx w⟩
      rw [encode, Variant.vid_of_ofVid _ v hv, BitVec.or_assoc, placedFields_v]
      rfl
  | crcRd =>
    cases hsel : Selector.ofSel (fieldVid w) with
    | none => simp [decodeFields, hsel] at h
    | some sel =>
      simp only [decodeFields, hsel] at h
      cases h
      refine ⟨rfl, ?_, ctxFits_fieldCtx w⟩
      rw [encode, Selector.sel_of_ofSel _ sel hsel, BitVec.or_assoc, placedFields_v]
      rfl
  | crcRfl =>
    cases h
    exact ⟨rfl, congrArg (_ ||| ·) (placedFields_r w), rfl⟩
  | encI16 | encI32 | encI64 | encF32 | encF64 | decI16 | decI32 | decI64 | decF32 | decF64 =>
    cases h
    exact ⟨rfl, congrArg (_ ||| ·) (placedFields_b w), rfl⟩

/-- Settles O2: opcode and fields are all the bits of a word that decodes to a command. -/
theorem decodedWordIsItsEncoding : Obligations.DecodedWordIsItsEncoding := by
  intro w i h
  rcases decode_cases w with ⟨r, hr, hw, hdec⟩ | ⟨_, hdec⟩
  · obtain ⟨hm, henc, hwf⟩ := decodeFields_eq_command (hdec.symm.trans h)
    obtain rfl : rowOf i = r := Row.eq_of_mnemonic_eq _ (rowOf_mem i) r hr hm
    refine ⟨?_, hwf⟩
    calc encode i
      _ = (w &&& (rowOf i).format.mask) ||| (w &&& ~~~(rowOf i).format.mask) := by rw [henc, hw]
      _ = w := by rw [← BitVec.and_or_distrib_left, BitVec.or_not_self, BitVec.and_allOnes]
  · cases hdec.symm.trans h

/-! ## Illegal words (30_encoding.md R91) -/

/-- Which fields a row rejects. -/
theorem decodeFields_illegal_iff (m : Mnemonic) (w : Word) :
    (∃ why, decodeFields m w = .illegal why) ↔
      (m = .crcVar ∧ 10 ≤ (fieldVid w).toNat) ∨ (m = .crcRd ∧ 6 ≤ (fieldVid w).toNat) := by
  cases m with
  | crcVar =>
    rw [← Variant.ofVid_eq_none_iff]
    cases hv : Variant.ofVid (fieldVid w) <;> simp [decodeFields, hv]
  | crcRd =>
    rw [← Selector.ofSel_eq_none_iff]
    cases hsel : Selector.ofSel (fieldVid w) <;> simp [decodeFields, hsel]
  | _ => simp [decodeFields]

theorem decode_illegal_iff (w : Word) :
    (∃ why, decode w = .illegal why) ↔
      (∀ r ∈ opcodeTable, w &&& r.format.mask ≠ r.op) ∨
        (w &&& Format.v.mask = 0x03 ∧ 10 ≤ (fieldVid w).toNat) ∨
        (w &&& Format.s.mask = 0x08 ∧ 6 ≤ (fieldVid w).toNat) := by
  have hvar : (⟨.crcVar, .v, 0x03⟩ : Row) ∈ opcodeTable := by decide
  have hrd : (⟨.crcRd, .s, 0x08⟩ : Row) ∈ opcodeTable := by decide
  constructor
  · rintro ⟨why, h⟩
    rcases decode_cases w with ⟨r, hr, hw, hdec⟩ | ⟨hno, _⟩
    · rcases (decodeFields_illegal_iff r.mnemonic w).mp ⟨why, hdec.symm.trans h⟩ with ⟨hm, hv⟩ | ⟨hm, hsel⟩
      · obtain rfl := Row.eq_of_mnemonic_eq r hr _ hvar hm
        exact .inr (.inl ⟨hw, hv⟩)
      · obtain rfl := Row.eq_of_mnemonic_eq r hr _ hrd hm
        exact .inr (.inr ⟨hw, hsel⟩)
    · exact .inl hno
  · rintro (hno | ⟨hw, hv⟩ | ⟨hw, hsel⟩)
    · exact ⟨_, decode_of_no_match hno⟩
    · rw [decode_of_matches hvar hw]
      exact (decodeFields_illegal_iff _ w).mpr (.inl ⟨rfl, hv⟩)
    · rw [decode_of_matches hrd hw]
      exact (decodeFields_illegal_iff _ w).mpr (.inr ⟨rfl, hsel⟩)

/-- Settles O4, by the rows' masks and the effect of issuing an illegal word. -/
theorem illegalWordsEndWithIllegal : Obligations.IllegalWordsEndWithIllegal := fun w s =>
  ⟨decode_illegal_iff w, fun ⟨_, h⟩ => Machine.issue_of_illegal h s⟩

/-! ## The example encodings (30_encoding.md R93) -/

/-- Settles O5: fixed words. -/
theorem exampleWordsDecode : Obligations.ExampleWordsDecode := by
  unfold Obligations.ExampleWordsDecode
  decide

end Sys2Proof

namespace Sys2Proof.Machine

/-! ## The accesses of `arg<i>` (30_encoding.md R96) -/

theorem withHi_withLo (old v : DWord) : withHi (withLo old (loHalf v)) (hiHalf v) = v := by
  have hlo : loHalf (withLo old (loHalf v)) = loHalf v := BitVec.extractLsb'_append_eq_right
  calc withHi (withLo old (loHalf v)) (hiHalf v)
    _ = hiHalf v ++ loHalf v := by rw [withHi, hlo]
    _ = v.extractLsb' 0 64 := BitVec.extractLsb'_append_extractLsb'_eq_extractLsb' rfl
    _ = v := BitVec.extractLsb'_eq_self

theorem step_wr32 {s t : State} {a : Offset} {v : Word} {ops : List HostOp} (hp : s.pending = .wr32 a v :: ops)
    (ha : accepted .b32 a = true) (hw : writeReg { s with pending := ops } (windowReg a) v = .next t) :
    step s = .next (t.answer .done) := by
  rw [step_of_pending hp, access_wr32 _ v ha, hw, mapNext_next]

theorem run_succ {s t : State} (h : step s = .next t) (k : Nat) : core.run (k + 1) s = core.run k t := by
  have hs : core.step s = .next t := h
  simp only [Host.Core.run, hs]

/-- Two accepted writes to registers, one a step. -/
theorem run_two_wr32 {s t u : State} {a b : Offset} {v x : Word} {ops : List HostOp}
    (hp : s.pending = [.wr32 a v, .wr32 b x] ++ ops) (ha : accepted .b32 a = true) (hb : accepted .b32 b = true)
    (hv : writeReg { s with pending := .wr32 b x :: ops } (windowReg a) v = .next t)
    (hpt : t.pending = .wr32 b x :: ops)
    (hx : writeReg { t.answer .done with pending := ops } (windowReg b) x = .next u) :
    core.run 2 s = .next (u.answer .done) := by
  have hsecond : step (t.answer .done) = .next (u.answer .done) := step_wr32 hpt hb hx
  exact (run_succ (step_wr32 hp ha hv) 1).trans (run_succ hsecond 0)

/-- Settles O31: a write of each half, and the two halves are the whole register. -/
theorem argPseudoSetsTheWholeRegister : Obligations.ArgPseudoSetsTheWholeRegister := by
  intro s v ops
  refine ⟨fun hp => ?_, fun hp => ?_, fun hp => ?_, fun hp => ?_⟩ <;>
  · refine (run_two_wr32 hp rfl rfl rfl rfl rfl).trans ?_
    simp [State.answer, withHi_withLo]

end Sys2Proof.Machine

/-! SUPPORT. The CRC family (40_crc.md): generated tables as bit-serial division, finalization, and what each CRC command does to
the state. -/
namespace Sys2Proof.Machine

/-! ## Bit-serial division (40_crc.md R102, R103) -/

/-- Subtracting the polynomial where a bit is set is linear over XOR. -/
theorem ite_xor_linear {w : Nat} (p x y : BitVec w) (c d : Bool) :
    (if c ^^ d then (x ^^^ y) ^^^ p else x ^^^ y) = (if c then x ^^^ p else x) ^^^ (if d then y ^^^ p else y) := by
  have hcancel : (x ^^^ p) ^^^ (y ^^^ p) = (x ^^^ y) ^^^ (p ^^^ p) := by ac_rfl
  cases c <;> cases d
  · rfl
  · exact BitVec.xor_assoc x y p
  · show (x ^^^ y) ^^^ p = (x ^^^ p) ^^^ y
    ac_rfl
  · simp [hcancel]

theorem shiftRightBit_xor {w : Nat} (p : BitVec w) : Function.Semiconj₂ (shiftRightBit p) (· ^^^ ·) (· ^^^ ·) := by
  intro a b
  simp only [shiftRightBit, BitVec.getLsbD_xor, BitVec.ushiftRight_xor_distrib, ite_xor_linear]

theorem shiftLeftBit_xor {w : Nat} (p : BitVec w) : Function.Semiconj₂ (shiftLeftBit p) (· ^^^ ·) (· ^^^ ·) := by
  intro a b
  simp only [shiftLeftBit, BitVec.getLsbD_xor, BitVec.shiftLeft_xor_distrib, ite_xor_linear]

/-- While the bits shifted out are 0, the shift-right division only shifts. -/
theorem iterate_shiftRightBit_of_low_zero {w : Nat} (p : BitVec w) (n : Nat) (r : BitVec w)
    (h : ∀ j < n, r.getLsbD j = false) : (shiftRightBit p)^[n] r = r >>> n := by
  induction n generalizing r with
  | zero => simp
  | succ n ih =>
    have hstep : shiftRightBit p r = r >>> 1 := by simp [shiftRightBit, h 0]
    rw [Function.iterate_succ_apply, hstep, ih _ fun j hj => by rw [BitVec.getLsbD_ushiftRight, h _ (by omega)],
      ← BitVec.shiftRight_add, Nat.add_comm]

/-- While the bits shifted out are 0, the shift-left division only shifts. -/
theorem iterate_shiftLeftBit_of_high_zero {w : Nat} (p : BitVec w) (n : Nat) (r : BitVec w)
    (h : ∀ j, w - n ≤ j → r.getLsbD j = false) : (shiftLeftBit p)^[n] r = r <<< n := by
  induction n generalizing r with
  | zero => simp
  | succ n ih =>
    have hstep : shiftLeftBit p r = r <<< 1 := by simp [shiftLeftBit, h (w - 1) (by omega)]
    have hhigh : ∀ j, w - n ≤ j → (r <<< 1).getLsbD j = false := fun j hj => by
      rw [BitVec.getLsbD_shiftLeft, h (j - 1) (by omega), Bool.and_false]
    rw [Function.iterate_succ_apply, hstep, ih _ hhigh, ← BitVec.shiftLeft_add, Nat.add_comm]

/-- Eight steps to the right divide the low byte and shift the rest. -/
theorem iterate_shiftRightBit_eight {w : Nat} (p r : BitVec w) :
    (shiftRightBit p)^[8] r = (r >>> 8) ^^^ (shiftRightBit p)^[8] ((r.extractLsb' 0 8).setWidth w) := by
  have hsplit : r = ((r >>> 8) <<< 8) ^^^ (r.extractLsb' 0 8).setWidth w := by
    apply BitVec.eq_of_getLsbD_eq
    intro j hj
    by_cases h8 : j < 8
    · simp [hj, h8]
    · simp [hj, h8, show 8 + (j - 8) = j by omega]
  have hshift : ((r >>> 8) <<< 8) >>> 8 = r >>> 8 := by
    apply BitVec.eq_of_getLsbD_eq
    intro j hj
    by_cases h8 : 8 + j < w
    · simp [h8]
    · simp [h8, BitVec.getLsbD_of_ge r (8 + j) (by omega)]
  calc (shiftRightBit p)^[8] r
    _ = (shiftRightBit p)^[8] (((r >>> 8) <<< 8) ^^^ (r.extractLsb' 0 8).setWidth w) := by rw [← hsplit]
    _ = (shiftRightBit p)^[8] ((r >>> 8) <<< 8) ^^^ (shiftRightBit p)^[8] ((r.extractLsb' 0 8).setWidth w) :=
      (shiftRightBit_xor p).iterate 8 _ _
    _ = _ := by rw [iterate_shiftRightBit_of_low_zero p 8 _ (by simp +contextual), hshift]

/-- Eight steps to the left divide the high byte and shift the rest. -/
theorem iterate_shiftLeftBit_eight {w : Nat} (hw : 8 ≤ w) (p r : BitVec w) :
    (shiftLeftBit p)^[8] r = (r <<< 8) ^^^ (shiftLeftBit p)^[8] ((r.extractLsb' (w - 8) 8).setWidth w <<< (w - 8)) := by
  have hsplit : r = ((r <<< 8) >>> 8) ^^^ ((r.extractLsb' (w - 8) 8).setWidth w <<< (w - 8)) := by
    apply BitVec.eq_of_getLsbD_eq
    intro j hj
    by_cases hlow : j < w - 8
    · simp [hlow, show 8 + j < w by omega, BitVec.getLsbD_eq_getElem hj]
    · simp [hj, hlow, show ¬ 8 + j < w by omega, show j - (w - 8) < 8 by omega, show w - 8 + (j - (w - 8)) = j by omega]
  have hshift : ((r <<< 8) >>> 8) <<< 8 = r <<< 8 := by
    apply BitVec.eq_of_getLsbD_eq
    intro j hj
    by_cases h8 : j < 8
    · simp [h8]
    · simp [hj, h8, show 8 + (j - 8) = j by omega]
  have hhigh : ∀ j, w - 8 ≤ j → ((r <<< 8) >>> 8).getLsbD j = false := fun j hj => by
    simp [show ¬ 8 + j < w by omega]
  calc (shiftLeftBit p)^[8] r
    _ = (shiftLeftBit p)^[8] (((r <<< 8) >>> 8) ^^^ ((r.extractLsb' (w - 8) 8).setWidth w <<< (w - 8))) := by rw [← hsplit]
    _ = (shiftLeftBit p)^[8] ((r <<< 8) >>> 8) ^^^
          (shiftLeftBit p)^[8] ((r.extractLsb' (w - 8) 8).setWidth w <<< (w - 8)) := (shiftLeftBit_xor p).iterate 8 _ _
    _ = _ := by rw [iterate_shiftLeftBit_of_high_zero p 8 _ hhigh, hshift]

/-! ## Generated tables and one byte into the register (40_crc.md R107-R110) -/

theorem tableAt_genTable {w : Nat} (poly : BitVec w) (ri : Bool) :
    tableAt (genTable poly ri) = if ri then rightEntry poly else leftEntry poly := by
  funext i
  cases ri <;> exact tableAt_tableOf _ i

/-- A byte entered at the low end: the shift-right division of the whole register. -/
theorem stepRight_genTable {w : Nat} (hw : 8 ≤ w) (poly reg : BitVec w) (b : Byte) :
    stepRight (genTable poly true) reg b = (shiftRightBit (reflect poly))^[8] (reg ^^^ b.setWidth w) := by
  have hrest : b.setWidth w >>> 8 = 0#w := by
    apply BitVec.eq_of_getLsbD_eq
    intro j _
    simp
  have hbyte : (b.setWidth w).extractLsb' 0 8 = b := by
    apply BitVec.eq_of_getLsbD_eq
    intro j hj
    simp [hj, show j < w by omega]
  rw [iterate_shiftRightBit_eight, BitVec.ushiftRight_xor_distrib, hrest, BitVec.extractLsb'_xor, hbyte, BitVec.xor_zero,
    BitVec.xor_comm _ b, stepRight, tableAt_genTable]
  rfl

/-- A byte entered at the high end: the shift-left division of the whole register. -/
theorem stepLeft_genTable {w : Nat} (hw : 8 ≤ w) (poly reg : BitVec w) (b : Byte) :
    stepLeft (genTable poly false) reg b = (shiftLeftBit poly)^[8] (reg ^^^ (b.setWidth w <<< (w - 8))) := by
  have hrest : (b.setWidth w <<< (w - 8)) <<< 8 = 0#w := by
    rw [← BitVec.shiftLeft_add, show w - 8 + 8 = w by omega]
    exact BitVec.shiftLeft_eq_zero (Nat.le_refl w)
  have hbyte : (b.setWidth w <<< (w - 8)).extractLsb' (w - 8) 8 = b := by
    apply BitVec.eq_of_getLsbD_eq
    intro j hj
    simp [hj, show w - 8 + j < w by omega]
  rw [iterate_shiftLeftBit_eight hw, BitVec.shiftLeft_xor_distrib, hrest, BitVec.extractLsb'_xor, hbyte, BitVec.xor_zero,
    BitVec.xor_comm _ b, stepLeft, tableAt_genTable]
  rfl

/-- Settles O35: division is linear, so the byte that meets the register's end is divided apart from the rest. -/
theorem tableUpdateIsBitSerial : Obligations.TableUpdateIsBitSerial :=
  ⟨fun poly reg b => ⟨stepRight_genTable (by decide) poly reg b, stepLeft_genTable (by decide) poly reg b⟩,
   fun poly reg b => ⟨stepRight_genTable (by decide) poly reg b, stepLeft_genTable (by decide) poly reg b⟩⟩

/-- The division of 0 is 0, so T[0] = 0 (40_crc.md R107). -/
theorem tableAt_genTable_zero {w : Nat} (poly : BitVec w) (ri : Bool) : tableAt (genTable poly ri) 0 = 0 := by
  rw [tableAt_genTable]
  cases ri <;> simp [rightEntry, leftEntry, Nat.repeat, shiftRightBit, shiftLeftBit]

/-- Settles O33: fixed entries, and the division of 0. -/
theorem sampleTableEntries : Obligations.SampleTableEntries := by
  refine ⟨?_, ?_, fun ri => ⟨fun poly => tableAt_genTable_zero poly ri, fun poly => tableAt_genTable_zero poly ri⟩⟩
  · simp only [tableAt_genTable]
    decide +kernel
  · simp only [tableAt_genTable]
    decide +kernel

theorem CrcOf.stepByte_right {w : Nat} {c : CrcOf w} (h : c.params.ri = true) : c.stepByte = stepRight c.table := by
  funext reg b; simp [CrcOf.stepByte, h]

theorem CrcOf.stepByte_left {w : Nat} {c : CrcOf w} (h : c.params.ri = false) : c.stepByte = stepLeft c.table := by
  funext reg b; simp [CrcOf.stepByte, h]

/-- Settles O34: the reflect-input flag picks the direction. -/
theorem byteUpdate : Obligations.ByteUpdate :=
  ⟨fun _ _ _ => ⟨fun h => by rw [CrcOf.stepByte_right h]; rfl, fun h => by rw [CrcOf.stepByte_left h]; rfl⟩,
   fun _ _ _ => ⟨fun h => by rw [CrcOf.stepByte_right h]; rfl, fun h => by rw [CrcOf.stepByte_left h]; rfl⟩⟩

/-- Settles O37: the registers and values of ten fixed runs. -/
theorem namedVariantCheckValues : Obligations.NamedVariantCheckValues := by
  unfold Obligations.NamedVariantCheckValues
  decide +kernel

/-! ## Values of byte lists and finalization (00_scope.md R14; 40_crc.md R112) -/

theorem fromLE_cons (w : Nat) (b : Byte) (bs : List Byte) : fromLE (w + 8) (b :: bs) = fromLE w bs ++ b := by
  apply BitVec.eq_of_getLsbD_eq
  intro j hj
  rw [fromLE_getLsbD, BitVec.getLsbD_append, fromLE_getLsbD]
  by_cases h8 : j < 8
  · simp [hj, h8, Nat.div_eq_of_lt h8, Nat.mod_eq_of_lt h8]
  · have hdiv : j / 8 = (j - 8) / 8 + 1 := by omega
    have hmod : j % 8 = (j - 8) % 8 := by omega
    rw [hdiv, hmod]
    simp [hj, h8, show j - 8 < w by omega]

theorem fromLE_two (b0 b1 : Byte) : fromLE 16 [b0, b1] = b1 ++ b0 := by
  rw [fromLE_cons 8]; simp [fromLE]

theorem fromLE_four (b0 b1 b2 b3 : Byte) : fromLE 32 [b0, b1, b2, b3] = b3 ++ b2 ++ b1 ++ b0 := by
  rw [fromLE_cons 24, fromLE_cons 16, fromLE_two]

theorem bswap_sixteen (v : BitVec 16) : bswap v = v.extractLsb' 0 8 ++ v.extractLsb' 8 8 := fromLE_two _ _

theorem bswap_thirtyTwo (v : BitVec 32) :
    bswap v = v.extractLsb' 0 8 ++ v.extractLsb' 8 8 ++ v.extractLsb' 16 8 ++ v.extractLsb' 24 8 := fromLE_four _ _ _ _

/-- F_inv undoes the byte swap, the mask and the reflection, each its own inverse. -/
theorem CrcParams.unfinalize_finalize {w : Nat} (hw : w % 8 = 0) (p : CrcParams w) (v : BitVec w) :
    p.unfinalize (p.finalize v) = v := by
  unfold CrcParams.unfinalize CrcParams.finalize
  cases p.bs <;> by_cases hr : p.ri = p.ro <;> simp [hr, bswap_bswap hw, reflect_reflect]

theorem CrcParams.finalize_unfinalize {w : Nat} (hw : w % 8 = 0) (p : CrcParams w) (v : BitVec w) :
    p.finalize (p.unfinalize v) = v := by
  unfold CrcParams.unfinalize CrcParams.finalize
  cases p.bs <;> by_cases hr : p.ri = p.ro <;> simp [hr, bswap_bswap hw, reflect_reflect]

/-- Settles O36: the byte swap spelled out at both widths, and the three involutions of F. -/
theorem finalizationAndItsInverse : Obligations.FinalizationAndItsInverse :=
  ⟨fun p v => ⟨by simp only [CrcParams.finalize, bswap_sixteen], p.unfinalize_finalize rfl v, p.finalize_unfinalize rfl v⟩,
   fun p v =>
    ⟨by simp only [CrcParams.finalize, bswap_thirtyTwo], p.unfinalize_finalize rfl v, p.finalize_unfinalize rfl v⟩⟩

/-! ## How a command on a context fails (60_exceptions.md R181-R184) -/

theorem failsWith_of_raiseErr {e : ErrCode} {i : Instr} {s : State} (he : e ≠ .ok) (h : exec i s = raiseErr e s) :
    FailsWith e i s := h.trans (raiseErr_eq e s he)

/-- A command that is its index check and a body ends with BADCTX where there is no context. -/
theorem failsWith_badctx {i : Instr} {c : Nat} {s : State} {body : Outcome} (h : exec i s = checkIndex c s body)
    (hc : s.cfg.numCtx ≤ c) : FailsWith .badctx i s :=
  failsWith_of_raiseErr (by decide) (h.trans (checkIndex_fail c s body hc))

/-- A command that is the use of a configured context ends with BADCTX, then NOCFG. -/
theorem needsContext_of_useContext {c : Nat} {i : Instr} {body : State → Crc → Outcome}
    (h : ∀ s, exec i s = useContext c s (body s)) : NeedsContext c i := fun s =>
  ⟨fun hc => failsWith_badctx (h s) hc,
   fun hc hk => failsWith_of_raiseErr (by decide) ((h s).trans (useContext_nocfg c s _ hc hk))⟩

/-! ## What a command that completes leaves alone -/

/-- A change that keeps STATUS, followed by success (10_state.md R27). -/
theorem succeeded_endWith_ok {s u : State} (h : u.status = s.status) : Succeeded s (u.endWith .ok) :=
  ⟨rfl, by rw [State.endWith_status, Status.after_ok_sticky, h]⟩

/-- `t` is `s` with context c replaced by k, after a command that completed. -/
def ContextReplaced (c : Nat) (k : Crc) (s t : State) : Prop :=
  Succeeded s t ∧ Untouched s t ∧ t.result = s.result ∧ SameBytes s t ∧ OtherContextsSame c s t ∧ t.context c = some k

theorem contextReplaced_setContext {c : Nat} {s : State} (hc : c < s.ctx.length) (k : Crc) :
    ContextReplaced c k s ((s.setContext c k).endWith .ok) :=
  ⟨succeeded_endWith_ok rfl, .of_update s _ _ _ _, rfl, fun _ => rfl, fun d hd => s.context_setContext_other c d k hd,
   s.context_setContext_same c k hc⟩

/-- `t` is `s` with v in RESULT, after a command that completed. -/
def ResultReturned (v : DWord) (s t : State) : Prop :=
  Succeeded s t ∧ Untouched s t ∧ SameContexts s t ∧ SameBytes s t ∧ t.result = v

theorem resultReturned_setResult (s : State) (v : DWord) : ResultReturned v s ((s.setResult v).endWith .ok) :=
  ⟨succeeded_endWith_ok rfl, .of_update s _ _ _ _, fun _ => rfl, fun _ => rfl, rfl⟩

/-! ## Construction (40_crc.md R115-R117) -/

theorem State.Wf.lt_ctx_length {s : State} (hs : s.Wf) {c : Nat} (hc : c < s.cfg.numCtx) : c < s.ctx.length :=
  hs.contexts ▸ hc

/-- A construction command that passes its checks. -/
theorem exists_contextReplaced {i : Instr} {c : Nat} {s : State} {k : Crc} (hs : s.Wf) (hc : c < s.cfg.numCtx)
    (h : exec i s = checkIndex c s (complete (s.setContext c k))) :
    ∃ t, exec i s = .next t ∧ ContextReplaced c k s t :=
  ⟨_, h.trans (checkIndex_pass c s _ hc), contextReplaced_setContext (hs.lt_ctx_length hc) k⟩

/-- Settles O38, by the checks of a construction command and the frame of a replaced context. -/
theorem cfgConstructsFromParameters : Obligations.CfgConstructsFromParameters := by
  intro c width ri ro bs s
  refine ⟨failsWith_badctx rfl, fun hs hc => ?_⟩
  cases width with
  | w16 => exact exists_contextReplaced hs hc rfl
  | w32 => exact exists_contextReplaced hs hc rfl

/-- The context a variant's row of R104 constructs: the generated table and REG at the seed. -/
theorem exists_crcVar_contextReplaced {c : Nat} {v : Variant} {row : VariantRow} (hrow : variantRow v = row) {s : State}
    (hs : s.Wf) (hc : c < s.cfg.numCtx) :
    ∃ t, exec (.crcVar c v) s = .next t ∧ ContextReplaced c row.construct s t :=
  hrow ▸ exists_contextReplaced hs hc rfl

/-- Settles O40: the ten rows are those of the model's table. -/
theorem varConstructsTheNamedVariant : Obligations.VarConstructsTheNamedVariant := by
  refine ⟨fun c v s => failsWith_badctx rfl, fun row hrow c s hs hc => ?_, fun row hrow c s hs hc => ?_⟩
  · have hv : variantRow row.1 = .w16 row.2 := by revert row; decide
    exact exists_crcVar_contextReplaced hv hs hc
  · have hv : variantRow row.1 = .w32 row.2 := by revert row; decide
    exact exists_crcVar_contextReplaced hv hs hc

/-- Entry j of a table image (40_crc.md R116). -/
theorem imageTable_getElem {w : Nat} (s : State) (off : Nat) (j : Fin 256) :
    (imageTable w s off)[j] = fromLE w (s.bufRead (off + w / 8 * j) (w / 8)) := by
  have hj : (BitVec.ofNat 8 j).toNat = j := by simp
  rw [imageTable, tableOf_getElem, hj, Nat.mul_comm]

theorem imageTable_sixteen_getElem (s : State) (off : Nat) (j : Fin 256) :
    (imageTable 16 s off)[j] = s.byteAt (off + 2 * j + 1) ++ s.byteAt (off + 2 * j) :=
  (imageTable_getElem s off j).trans (fromLE_two _ _)

theorem imageTable_thirtyTwo_getElem (s : State) (off : Nat) (j : Fin 256) :
    (imageTable 32 s off)[j] = s.byteAt (off + 4 * j + 3) ++ s.byteAt (off + 4 * j + 2) ++
      s.byteAt (off + 4 * j + 1) ++ s.byteAt (off + 4 * j) :=
  (imageTable_getElem s off j).trans (fromLE_four _ _ _ _)

theorem checkIndex_checkBounds_pass {c off n : Nat} {e : ErrCode} {s : State} {body : Outcome} (hc : c < s.cfg.numCtx)
    (hin : off + n ≤ s.cfg.bufSize) : checkIndex c s (checkBounds off n e s body) = body :=
  (checkIndex_pass c s _ hc).trans (checkBounds_pass off n e s body hin)

theorem checkIndex_checkBounds_fail {c off n : Nat} {e : ErrCode} {s : State} {body : Outcome} (hc : c < s.cfg.numCtx)
    (hout : s.cfg.bufSize < off + n) : checkIndex c s (checkBounds off n e s body) = raiseErr e s :=
  (checkIndex_pass c s _ hc).trans (checkBounds_fail off n e s body hout)

/-- Settles O39: the checks in order, the frame of a replaced context, and the entries of the image at both widths. -/
theorem cfgtCopiesTheTableImage : Obligations.CfgtCopiesTheTableImage := by
  intro c ri ro bs s
  refine ⟨fun width hc => failsWith_badctx rfl hc, fun hc hout => ?_, fun hc hout => ?_, fun hs hc hin => ?_,
    fun hs hc hin => ?_⟩
  · exact failsWith_of_raiseErr (by decide) (checkIndex_checkBounds_fail hc hout)
  · exact failsWith_of_raiseErr (by decide) (checkIndex_checkBounds_fail hc hout)
  · obtain ⟨hok, hframe, hres, hbytes, hothers, hk⟩ := contextReplaced_setContext (hs.lt_ctx_length hc)
      (.w16 (CrcOf.construct (s.paramsFromArgs 16 ri ro bs) (imageTable 16 s s.offset3)))
    exact ⟨_, _, checkIndex_checkBounds_pass hc hin, hok, hframe, hres, hbytes, hothers, hk, rfl, rfl,
      imageTable_sixteen_getElem s _⟩
  · obtain ⟨hok, hframe, hres, hbytes, hothers, hk⟩ := contextReplaced_setContext (hs.lt_ctx_length hc)
      (.w32 (CrcOf.construct (s.paramsFromArgs 32 ri ro bs) (imageTable 32 s s.offset3)))
    exact ⟨_, _, checkIndex_checkBounds_pass hc hin, hok, hframe, hres, hbytes, hothers, hk, rfl, rfl,
      imageTable_thirtyTwo_getElem s _⟩

/-! ## A command on a configured context that passes its checks (40_crc.md R118-R123) -/

section ConfiguredContext

variable {c : Nat} {k : Crc} {s : State} (hc : c < s.cfg.numCtx) (hk : s.context c = some k)
include hc hk

/-- A command that uses a configured context and then checks a BUF range. -/
theorem failsWith_bounds {i : Instr} {body : Crc → Outcome} {off n : Nat} {inner : Outcome}
    (h : exec i s = useContext c s body) (hbody : body k = checkBounds off n .bounds s inner)
    (hout : s.cfg.bufSize < off + n) : FailsWith .bounds i s :=
  failsWith_of_raiseErr (by decide)
    ((h.trans (useContext_pass c s body k hc hk)).trans (hbody.trans (checkBounds_fail off n .bounds s inner hout)))

theorem exec_crcInit : exec (.crcInit c) s = .next ((s.setContext c k.init).endWith .ok) := useContext_pass c s _ k hc hk

theorem exec_crcUpd (hin : s.arg0.toNat + s.arg1.toNat ≤ s.cfg.bufSize) :
    exec (.crcUpd c) s =
      .next ((s.setContext c (k.update (s.bufRead s.arg0.toNat s.arg1.toNat))).endWith .ok) :=
  (useContext_pass c s _ k hc hk).trans (checkBounds_pass _ _ _ s _ hin)

theorem exec_crcFin (hin : s.arg0.toNat + k.bytes ≤ s.cfg.bufSize) :
    exec (.crcFin c) s = .next (((s.bufWrite s.arg0.toNat k.digest).setResult k.digestValue).endWith .ok) :=
  (useContext_pass c s _ k hc hk).trans (checkBounds_pass _ _ _ s _ hin)

theorem exec_crcCmp (hin : s.arg0.toNat + s.arg1.toNat ≤ s.cfg.bufSize) :
    exec (.crcCmp c) s =
      .next ((s.setResult (k.compute s.arg2 (s.bufRead s.arg0.toNat s.arg1.toNat))).endWith .ok) :=
  (useContext_pass c s _ k hc hk).trans (checkBounds_pass _ _ _ s _ hin)

theorem exec_crcRd_of_some {sel : Selector} {v : DWord} (hread : k.read sel s.arg0.toNat = some v) :
    exec (.crcRd c sel) s = .next { s with result := v, status := { err := .ok, sticky := s.status.sticky } } := by
  refine (useContext_pass c s _ k hc hk).trans ?_
  rw [State.index0, hread]
  exact complete_eq _

theorem crcRd_failsWith_bounds {sel : Selector} (hread : k.read sel s.arg0.toNat = none) :
    FailsWith .bounds (.crcRd c sel) s := by
  refine failsWith_of_raiseErr (by decide) ((useContext_pass c s _ k hc hk).trans ?_)
  rw [State.index0, hread]

end ConfiguredContext

theorem needsContext_crcInit (c : Nat) : NeedsContext c (.crcInit c) := needsContext_of_useContext fun _ => rfl
theorem needsContext_crcUpd (c : Nat) : NeedsContext c (.crcUpd c) := needsContext_of_useContext fun _ => rfl
theorem needsContext_crcFin (c : Nat) : NeedsContext c (.crcFin c) := needsContext_of_useContext fun _ => rfl
theorem needsContext_crcCmp (c : Nat) : NeedsContext c (.crcCmp c) := needsContext_of_useContext fun _ => rfl
theorem needsContext_crcRd (c : Nat) (sel : Selector) : NeedsContext c (.crcRd c sel) :=
  needsContext_of_useContext fun _ => rfl

/-! ## The incremental protocol (40_crc.md R118-R120) -/

/-- Settles O42, by the frame of a replaced context. -/
theorem initSetsRegToSeed : Obligations.InitSetsRegToSeed := by
  refine fun c => ⟨needsContext_crcInit c, fun k s hc hk => ⟨_, exec_crcInit hc hk, ?_⟩⟩
  have hreplaced := contextReplaced_setContext (s.lt_of_context c k hk) k.init
  cases k <;> exact hreplaced

/-- Settles O43, by the frame of a replaced context. -/
theorem updFoldsBytesIntoReg : Obligations.UpdFoldsBytesIntoReg := by
  refine fun c => ⟨needsContext_crcUpd c, fun k s hc hk =>
    ⟨failsWith_bounds hc hk rfl rfl, fun hin => ⟨_, exec_crcUpd hc hk hin, ?_⟩⟩⟩
  have hreplaced := contextReplaced_setContext (s.lt_of_context c k hk) (k.update (s.bufRead s.arg0.toNat s.arg1.toNat))
  cases k <;> exact hreplaced

/-- ARG0 and ARG1 naming the n bytes at off. -/
def State.withRange (s : State) (off n : Nat) : State :=
  { s with arg0 := BitVec.ofNat 64 off, arg1 := BitVec.ofNat 64 n }

/-- A range inside BUF fits the ARG registers. -/
theorem State.withRange_toNat (s : State) {off n : Nat} (hin : off + n ≤ s.cfg.bufSize) (hsize : s.cfg.bufSize ≤ 61440) :
    (s.withRange off n).arg0.toNat = off ∧ (s.withRange off n).arg1.toNat = n :=
  ⟨Nat.mod_eq_of_lt (by omega), Nat.mod_eq_of_lt (by omega)⟩

/-- After CRC.UPD of context c, which held k, over the n bytes at off. -/
def State.updated (s : State) (c : Nat) (k : Crc) (off n : Nat) : State :=
  ((s.withRange off n).setContext c (k.update (s.bufRead off n))).endWith .ok

theorem exec_crcUpd_withRange {c : Nat} {k : Crc} {s : State} (hc : c < s.cfg.numCtx) (hk : s.context c = some k)
    {off n : Nat} (hin : off + n ≤ s.cfg.bufSize) (hsize : s.cfg.bufSize ≤ 61440) :
    exec (.crcUpd c) (s.withRange off n) = .next (s.updated c k off n) := by
  obtain ⟨hoff, hn⟩ := s.withRange_toNat hin hsize
  have h := exec_crcUpd (s := s.withRange off n) hc hk (by rw [hoff, hn]; exact hin)
  rwa [hoff, hn] at h

theorem Crc.update_update (k : Crc) (bs bs' : List Byte) : (k.update bs).update bs' = k.update (bs ++ bs') := by
  cases k <;> simp only [Crc.update, CrcOf.fold, List.foldl_append] <;> rfl

/-- Settles O44: the fold over the first bytes is where the fold over the others begins. -/
theorem updTwiceIsUpdOnce : Obligations.UpdTwiceIsUpdOnce := by
  intro c k s off n m hc hk hin hsize
  have hk1 : (s.updated c k off n).context c = some (k.update (s.bufRead off n)) :=
    State.context_setContext_same _ c _ (s.lt_of_context c k hk)
  refine ⟨_, _, _, exec_crcUpd_withRange hc hk (by omega) hsize,
    exec_crcUpd_withRange (s := s.updated c k off n) hc hk1 hin hsize, exec_crcUpd_withRange hc hk (by omega) hsize, ?_⟩
  calc (s.ctx.set c (some (k.update (s.bufRead off n)))).set c
        (some ((k.update (s.bufRead off n)).update (s.bufRead (off + n) m)))
    _ = s.ctx.set c (some ((k.update (s.bufRead off n)).update (s.bufRead (off + n) m))) := List.set_set ..
    _ = s.ctx.set c (some (k.update (s.bufRead off (n + m)))) := by rw [Crc.update_update, State.bufRead_add]

/-- The frame of CRC.FIN, and the bytes it writes (40_crc.md R113, R120). -/
theorem exists_crcFin_digest {c : Nat} {k : Crc} {s : State} (hc : c < s.cfg.numCtx) (hk : s.context c = some k)
    (hin : s.arg0.toNat + k.bytes ≤ s.cfg.bufSize) :
    ∃ t, exec (.crcFin c) s = .next t ∧ Succeeded s t ∧ Untouched s t ∧ SameContexts s t ∧ t.result = k.digestValue ∧
      (∀ j (hj : j < k.digest.length), t.byteAt (s.arg0.toNat + j) = k.digest[j]) ∧
      SameBytesOutside s.arg0.toNat k.bytes s t :=
  ⟨_, exec_crcFin hc hk hin, succeeded_endWith_ok rfl, .of_update s _ _ _ _, fun _ => rfl, rfl,
   fun j hj => s.byteAt_bufWrite_inside _ _ j hj,
   fun a ha => s.byteAt_bufWrite_outside _ _ a (by rwa [Crc.digest_length])⟩

/-- Settles O45: read after write in BUF, and the bytes of a big-endian list. -/
theorem finWritesTheDigest : Obligations.FinWritesTheDigest := by
  refine fun c => ⟨needsContext_crcFin c, fun s hc => ⟨fun k hk => failsWith_bounds hc hk rfl rfl, fun x hk hin => ?_,
    fun x hk hin => ?_⟩⟩
  · obtain ⟨t, hexec, hok, hframe, hctx, hres, hbytes, hout⟩ := exists_crcFin_digest hc hk hin
    exact ⟨t, hexec, hok, hframe, hctx, hres, fun j hj => (hbytes j hj).trans (beBytes_getElem _ j _), hout⟩
  · obtain ⟨t, hexec, hok, hframe, hctx, hres, hbytes, hout⟩ := exists_crcFin_digest hc hk hin
    exact ⟨t, hexec, hok, hframe, hctx, hres, fun j hj => (hbytes j hj).trans (beBytes_getElem _ j _), hout⟩

/-! ## The commands that return a value (40_crc.md R122-R124) -/

/-- Settles O46, by the frame of a returned value. -/
theorem cmpComputesTheDigestValue : Obligations.CmpComputesTheDigestValue := by
  refine fun c => ⟨needsContext_crcCmp c, fun k s hc hk =>
    ⟨failsWith_bounds hc hk rfl rfl, fun hin => ⟨_, exec_crcCmp hc hk hin, ?_⟩⟩⟩
  have hreturned := resultReturned_setResult s (k.compute s.arg2 (s.bufRead s.arg0.toNat s.arg1.toNat))
  cases k <;> exact hreturned

/-- Another context that computes the same values in place of c: CRC.CMP of c does not see the difference. -/
theorem exec_crcCmp_setContext {c : Nat} {k k' : Crc} {s : State} (hk : s.context c = some k)
    (hsame : ∀ seed bs, k'.compute seed bs = k.compute seed bs) :
    exec (.crcCmp c) (s.setContext c k') = mapNext (fun t => t.setContext c k') (exec (.crcCmp c) s) := by
  have carry : CarriedThrough (State.setContext · c k') (State.setContext · c k') s := ⟨rfl, rfl, fun _ => rfl⟩
  refine carry.checkIndex c ?_
  rw [State.context_setContext_same s c k' (s.lt_of_context c k hk), hk]
  refine carry.checkBounds _ _ _ ?_
  rw [hsame]
  rfl

/-- Settles O47: the value CRC.CMP computes depends on the parameters and the table only. -/
theorem cmpDoesNotReadReg : Obligations.CmpDoesNotReadReg :=
  ⟨fun _ _ _ _ hk => exec_crcCmp_setContext hk fun _ _ => rfl, fun _ _ _ _ hk => exec_crcCmp_setContext hk fun _ _ => rfl⟩

/-- ARG2 holding a seed. -/
def State.withSeed (s : State) (seed : DWord) : State := { s with arg2 := seed }

/-- After CRC.CMP of a context that holds k, over the n bytes at off. -/
def State.computed (s : State) (k : Crc) (off n : Nat) : State :=
  ((s.withRange off n).setResult (k.compute s.arg2 (s.bufRead off n))).endWith .ok

theorem exec_crcCmp_withRange {c : Nat} {k : Crc} {s : State} (hc : c < s.cfg.numCtx) (hk : s.context c = some k)
    {off n : Nat} (hin : off + n ≤ s.cfg.bufSize) (hsize : s.cfg.bufSize ≤ 61440) :
    exec (.crcCmp c) (s.withRange off n) = .next (s.computed k off n) := by
  obtain ⟨hoff, hn⟩ := s.withRange_toNat hin hsize
  have h := exec_crcCmp (s := s.withRange off n) hc hk (by rw [hoff, hn]; exact hin)
  rwa [hoff, hn] at h

/-- The seed that continues from the digest value v: F_inv(v) (40_crc.md R114). -/
def Crc.resumeSeed (v : DWord) : Crc → DWord
  | .w16 x => (x.params.unfinalize (v.setWidth 16)).setWidth 64
  | .w32 x => (x.params.unfinalize (v.setWidth 32)).setWidth 64

theorem setWidth_zext64 {w : Nat} (hw : w ≤ 64) (v : BitVec w) : (zext64 v).setWidth w = v := by
  rw [zext64, BitVec.setWidth_setWidth_of_le v hw, BitVec.setWidth_eq]

/-- The register a continued computation starts from is the one the first computation ended with. -/
theorem trunc_resumed {w : Nat} (hw : w ≤ 64) (h8 : w % 8 = 0) (p : CrcParams w) (reg : BitVec w) :
    trunc w ((p.unfinalize ((zext64 (p.finalize reg)).setWidth w)).setWidth 64) = reg := by
  rw [setWidth_zext64 hw, p.unfinalize_finalize h8]
  exact setWidth_zext64 hw reg

theorem Crc.compute_resumeSeed (k : Crc) (seed : DWord) (bs bs' : List Byte) :
    k.compute (k.resumeSeed (k.compute seed bs)) bs' = k.compute seed (bs ++ bs') := by
  cases k with
  | w16 x =>
    simp only [Crc.compute, Crc.resumeSeed, CrcOf.fold, List.foldl_append]
    rw [trunc_resumed (by decide) rfl]
  | w32 x =>
    simp only [Crc.compute, Crc.resumeSeed, CrcOf.fold, List.foldl_append]
    rw [trunc_resumed (by decide) rfl]

/-- Settles O48: F_inv of the first result is the register the second computation must start from. -/
theorem cmpChainsThroughTheRegister : Obligations.CmpChainsThroughTheRegister := by
  intro c k s seed off n m hc hk hin hsize
  have hn : off + n ≤ s.cfg.bufSize := by omega
  have hnm : off + (n + m) ≤ s.cfg.bufSize := by omega
  refine ⟨_, _, _, exec_crcCmp_withRange (s := s.withSeed seed) hc hk hn hsize,
    exec_crcCmp_withRange
      (s := ((s.withSeed seed).computed k off n).withSeed (k.resumeSeed (k.compute seed (s.bufRead off n)))) hc hk hin hsize,
    exec_crcCmp_withRange (s := s.withSeed seed) hc hk hnm hsize, ?_⟩
  calc k.compute (k.resumeSeed (k.compute seed (s.bufRead off n))) (s.bufRead (off + n) m)
    _ = k.compute seed (s.bufRead off n ++ s.bufRead (off + n) m) := Crc.compute_resumeSeed k seed _ _
    _ = k.compute seed (s.bufRead off (n + m)) := by rw [State.bufRead_add]

theorem toNat_flagsWord {w : Nat} (wsel : Bool) (p : CrcParams w) :
    (flagsWord wsel p).toNat = wsel.toNat + 2 * p.ri.toNat + 4 * p.ro.toNat + 8 * p.bs.toNat := by
  unfold flagsWord
  generalize p.ri = ri, p.ro = ro, p.bs = bs
  revert wsel ri ro bs
  decide

/-- A value with the number of FLAGS is FLAGS zero-extended. -/
theorem eq_zext64_flagsWord {w : Nat} {wsel : Bool} {p : CrcParams w} {v : DWord}
    (h : v.toNat = wsel.toNat + 2 * p.ri.toNat + 4 * p.ro.toNat + 8 * p.bs.toNat) : v = zext64 (flagsWord wsel p) := by
  apply BitVec.eq_of_toNat_eq
  rw [zext64, BitVec.toNat_setWidth_of_le (by decide), toNat_flagsWord, h]

theorem CrcOf.read_table {w : Nat} (wsel : Bool) (x : CrcOf w) {i : Nat} (hi : i < 256) :
    x.read wsel i .table = some (zext64 x.table[i]) := dif_pos hi

theorem Crc.read_table_outside (k : Crc) {i : Nat} (hi : 255 < i) : k.read .table i = none := by
  cases k <;> exact dif_neg (by omega)

/-- Settles O49, selector by selector at both widths. -/
theorem rdReturnsTheSelectedField : Obligations.RdReturnsTheSelectedField := by
  refine fun c => ⟨needsContext_crcRd c, fun k s hc hk => ⟨fun sel v hv => exec_crcRd_of_some hc hk ?_,
    fun hout => crcRd_failsWith_bounds hc hk (k.read_table_outside hout)⟩⟩
  match k, sel, hv with
  | .w16 x, .table, ⟨hi, hv⟩ => rw [hv]; exact x.read_table false hi
  | .w32 x, .table, ⟨hi, hv⟩ => rw [hv]; exact x.read_table true hi
  | .w16 x, .flags, hv => exact congrArg some (eq_zext64_flagsWord (wsel := false) (by simpa using hv)).symm
  | .w32 x, .flags, hv => exact congrArg some (eq_zext64_flagsWord (wsel := true) hv).symm
  | .w16 _, .poly, hv | .w16 _, .seed, hv | .w16 _, .xorout, hv | .w16 _, .reg, hv => exact congrArg some (Eq.symm hv)
  | .w32 _, .poly, hv | .w32 _, .seed, hv | .w32 _, .xorout, hv | .w32 _, .reg, hv => exact congrArg some (Eq.symm hv)

/-- The bits of CRC.RFL's value: the low W bits of the operand reversed, zeros above (40_crc.md R101, R124). -/
theorem getLsbD_zext64_reflect_trunc {w : Nat} (hw : w ≤ 64) (v : DWord) (j : Nat) :
    (zext64 (reflect (trunc w v))).getLsbD j = (decide (j < w) && v.getLsbD (w - 1 - j)) := by
  rw [zext64, BitVec.getLsbD_setWidth]
  by_cases hj : j < w
  · rw [reflect_getLsbD _ j hj, trunc, BitVec.getLsbD_setWidth]
    simp [hj, show j < 64 by omega, show w - 1 - j < w by omega]
  · simp [hj, BitVec.getLsbD_of_ge _ j (Nat.le_of_not_lt hj)]

/-- Settles O50: a command without a context and without a check, bit by bit. -/
theorem rflReflectsArg0 : Obligations.RflReflectsArg0 := fun s =>
  ⟨⟨_, complete_eq (s.setResult (zext64 (reflect (trunc 16 s.arg0)))), getLsbD_zext64_reflect_trunc (by decide) s.arg0⟩,
   ⟨_, complete_eq (s.setResult (zext64 (reflect (trunc 32 s.arg0)))), getLsbD_zext64_reflect_trunc (by decide) s.arg0⟩⟩

/-! ## No other context matters (40_crc.md R125) -/

/-- The state with x in place of context d. -/
def State.putContext (d : Nat) (x : Option Crc) (s : State) : State := { s with ctx := s.ctx.set d x }

theorem putContext_carriedThrough (d : Nat) (x : Option Crc) (s : State) :
    CarriedThrough (State.putContext d x) (State.putContext d x) s := ⟨rfl, rfl, fun _ => rfl⟩

theorem State.context_putContext {c d : Nat} (h : c ≠ d) (x : Option Crc) (s : State) :
    (s.putContext d x).context c = s.context c := by
  simp [State.context, State.putContext, List.getElem?_set_ne h.symm]

theorem complete_setContext_putContext {c d : Nat} (h : c ≠ d) (x : Option Crc) (k : Crc) (s : State) :
    complete ((s.putContext d x).setContext c k) = mapNext (State.putContext d x) (complete (s.setContext c k)) := by
  simp [complete, State.putContext, State.setContext, State.endWith, List.set_comm _ _ h]

/-- Replacing a context is carried through every command that names another one or none. -/
theorem exec_putContext {i : Instr} {d : Nat} (hd : contextNumber i ≠ some d) (x : Option Crc) (s : State) :
    exec i (s.putContext d x) = mapNext (State.putContext d x) (exec i s) := by
  have carry := putContext_carriedThrough d x s
  have other {c : Nat} (hi : contextNumber i = some c) : c ≠ d := fun hcd => hd (hcd ▸ hi)
  have seen {c : Nat} (hi : contextNumber i = some c) := s.context_putContext (other hi) x
  have replaced {c : Nat} (hi : contextNumber i = some c) (k : Crc) := complete_setContext_putContext (other hi) x k s
  cases i with
  | nop => rfl
  | crcCfg c width => cases width <;> exact carry.checkIndex c (replaced rfl _)
  | crcCfgt c width => cases width <;> exact carry.checkIndex c (carry.checkBounds _ _ _ (replaced rfl _))
  | crcVar c => exact carry.checkIndex c (replaced rfl _)
  | crcInit c => exact carry.useContext c (seen rfl) fun _ => replaced rfl _
  | crcUpd c => exact carry.useContext c (seen rfl) fun _ => carry.checkBounds _ _ _ (replaced rfl _)
  | crcFin c => exact carry.useContext c (seen rfl) fun _ => carry.checkBounds _ _ _ rfl
  | crcCmp c => exact carry.useContext c (seen rfl) fun _ => carry.checkBounds _ _ _ rfl
  | crcRd c sel =>
    refine carry.useContext c (seen rfl) fun k => ?_
    have hindex : (s.putContext d x).index0 = s.index0 := rfl
    rw [hindex]
    cases k.read sel s.index0 <;> rfl
  | crcRfl width => cases width <;> rfl
  | encI16 e t => exact carry.codecBounds _ t _ _ rfl
  | encI32 e t => exact carry.codecBounds _ t _ _ rfl
  | encI64 e t => exact carry.codecBounds _ t _ _ rfl
  | encF32 e t => exact carry.codecBounds _ t _ _ rfl
  | encF64 e t => exact carry.codecBounds _ t _ _ rfl
  | decI16 e t => exact carry.codecBounds _ t _ _ rfl
  | decI32 e t => exact carry.codecBounds _ t _ _ rfl
  | decI64 e t => exact carry.codecBounds _ t _ _ rfl
  | decF32 e t => exact carry.codecBounds _ t _ _ rfl
  | decF64 e t => exact carry.codecBounds _ t _ _ rfl

/-- Settles O11: no check of a command sees another context, and its writes commute with replacing one. -/
theorem contextsAreIndependent : Obligations.ContextsAreIndependent := fun _ s _ x hd => exec_putContext hd x s

end Sys2Proof.Machine

/-! SUPPORT. The codec family (41_codec.md): a codec command is its bounds check and one effect, the same in both tiers; what the
bytes written and the number read are; what the codec leaves alone. -/
namespace Sys2Proof.Machine

/-! ## A codec command is its bounds check and one effect (41_codec.md R141-R146) -/

/-- The low w bits of ARG0 in BUF at ARG1, in the order e (41_codec.md R142, R143). -/
def State.encoded (w : Nat) (e : Endian) (s : State) : State :=
  s.bufWrite s.arg1.toNat (orderedBytes e (trunc w s.arg0))

/-- The w-bit value of the bytes at ARG1 in the order e, widened, in RESULT (41_codec.md R143, R148). -/
def State.decoded (w : Nat) (widen : BitVec w → DWord) (e : Endian) (s : State) : State :=
  s.setResult (widen (fromOrdered w e (s.bufRead s.arg1.toNat (w / 8))))

/-- What a codec command does in bounds but for STATUS, in either tier; nothing for the other commands. -/
def codecEffect : Instr → State → State
  | .encI16 e _ => State.encoded 16 e
  | .encI32 e _ => State.encoded 32 e
  | .encI64 e _ => State.encoded 64 e
  | .encF32 e _ => State.encoded 32 e
  | .encF64 e _ => State.encoded 64 e
  | .decI16 e _ => State.decoded 16 sext64 e
  | .decI32 e _ => State.decoded 32 sext64 e
  | .decI64 e _ => State.decoded 64 id e
  | .decF32 e _ => State.decoded 32 zext64 e
  | .decF64 e _ => State.decoded 64 id e
  | _ => id

theorem encodeValue_eq {w : Nat} (h8 : w % 8 = 0) (op : CodecOp) (e : Endian) (t : Tier) (s : State) :
    encodeValue op w e t s = codecBounds op t s.arg1.toNat (w / 8) s (complete (s.encoded w e)) := by
  rw [encodeValue, encodedBytes_eq h8]; rfl

theorem decodeValue_eq {w : Nat} (h8 : w % 8 = 0) (op : CodecOp) (widen : BitVec w → DWord) (e : Endian) (t : Tier)
    (s : State) :
    decodeValue op w widen e t s = codecBounds op t s.arg1.toNat (w / 8) s (complete (s.decoded w widen e)) := by
  rw [decodeValue, decodedValue_eq w _ e t _ (by rw [State.bufRead_length]; omega)]; rfl

section CodecCommand

variable {i : Instr} {op : CodecOp} {n : Nat} {tier : Tier} {s : State}

/-- Every codec command is the bounds check of its tier, then its effect. -/
theorem exec_codec (h : codecForm i = some (op, n, tier)) (s : State) :
    exec i s = codecBounds op tier s.arg1.toNat n s (complete (codecEffect i s)) := by
  cases i with
  | encI16 e t | encI32 e t | encI64 e t | encF32 e t | encF64 e t => cases h; exact encodeValue_eq rfl _ e _ s
  | decI16 e t | decI32 e t | decF32 e t => cases h; exact decodeValue_eq rfl _ _ e _ s
  | decI64 e t | decF64 e t => cases h; exact decodeValue_eq (w := 64) rfl _ id e _ s
  | _ => cases h

theorem exec_codec_pass (h : codecForm i = some (op, n, tier)) (hin : s.arg1.toNat + n ≤ s.cfg.bufSize) :
    exec i s = .next ((codecEffect i s).endWith .ok) :=
  (exec_codec h s).trans (codecBounds_pass op tier _ n s _ hin)

theorem codec_failsWith_bounds (h : codecForm i = some (op, n, .safe)) (hout : s.cfg.bufSize < s.arg1.toNat + n) :
    FailsWith .bounds i s :=
  failsWith_of_raiseErr (by decide) ((exec_codec h s).trans (codecBounds_safe op _ n s _ hout))

theorem exec_codec_fault (h : codecForm i = some (op, n, .raw)) (hout : s.cfg.bufSize < s.arg1.toNat + n) :
    exec i s = .fault (.undefinedBehaviour (.rawOutOfBounds op s.arg1.toNat)) :=
  (exec_codec h s).trans (codecBounds_raw op _ n s _ hout)

/-- A change that keeps ARG1 and that the effect carries through is carried through the command. -/
theorem CarriedThrough.exec_codec {f g : State → State} (carry : CarriedThrough f g s)
    (h : codecForm i = some (op, n, tier)) (harg : (f s).arg1 = s.arg1)
    (heffect : complete (codecEffect i (f s)) = mapNext g (complete (codecEffect i s))) :
    exec i (f s) = mapNext g (exec i s) := by
  rw [Machine.exec_codec h, Machine.exec_codec h, harg]
  exact carry.codecBounds op tier _ n heffect

end CodecCommand

/-! ## The ten commands by their width (41_codec.md R140) -/

/-- `ins` are the commands ENC of w bits, and a fault names them op. -/
structure IsEnc (w : Nat) (op : CodecOp) (ins : Endian → Tier → Instr) : Prop where
  form : ∀ e t, codecForm (ins e t) = some (op, w / 8, t)
  effect : ∀ e t, codecEffect (ins e t) = State.encoded w e

/-- `ins` are the commands DEC of w bits that extend the value by `widen`, and a fault names them op. -/
structure IsDec (w : Nat) (widen : BitVec w → DWord) (op : CodecOp) (ins : Endian → Tier → Instr) : Prop where
  form : ∀ e t, codecForm (ins e t) = some (op, w / 8, t)
  effect : ∀ e t, codecEffect (ins e t) = State.decoded w widen e

theorem isEnc_i16 : IsEnc 16 .encI16 .encI16 := ⟨fun _ _ => rfl, fun _ _ => rfl⟩
theorem isEnc_i32 : IsEnc 32 .encI32 .encI32 := ⟨fun _ _ => rfl, fun _ _ => rfl⟩
theorem isEnc_i64 : IsEnc 64 .encI64 .encI64 := ⟨fun _ _ => rfl, fun _ _ => rfl⟩
theorem isEnc_f32 : IsEnc 32 .encF32 .encF32 := ⟨fun _ _ => rfl, fun _ _ => rfl⟩
theorem isEnc_f64 : IsEnc 64 .encF64 .encF64 := ⟨fun _ _ => rfl, fun _ _ => rfl⟩
theorem isDec_i16 : IsDec 16 sext64 .decI16 .decI16 := ⟨fun _ _ => rfl, fun _ _ => rfl⟩
theorem isDec_i32 : IsDec 32 sext64 .decI32 .decI32 := ⟨fun _ _ => rfl, fun _ _ => rfl⟩
theorem isDec_i64 : IsDec 64 id .decI64 .decI64 := ⟨fun _ _ => rfl, fun _ _ => rfl⟩
theorem isDec_f32 : IsDec 32 zext64 .decF32 .decF32 := ⟨fun _ _ => rfl, fun _ _ => rfl⟩
theorem isDec_f64 : IsDec 64 id .decF64 .decF64 := ⟨fun _ _ => rfl, fun _ _ => rfl⟩

section ByWidth

variable {w : Nat} {widen : BitVec w → DWord} {op : CodecOp} {ins : Endian → Tier → Instr} {s : State}

theorem IsEnc.exec_pass (h : IsEnc w op ins) (e : Endian) (t : Tier) (hin : s.arg1.toNat + w / 8 ≤ s.cfg.bufSize) :
    exec (ins e t) s = .next ((s.encoded w e).endWith .ok) :=
  h.effect e t ▸ exec_codec_pass (h.form e t) hin

theorem IsDec.exec_pass (h : IsDec w widen op ins) (e : Endian) (t : Tier)
    (hin : s.arg1.toNat + w / 8 ≤ s.cfg.bufSize) :
    exec (ins e t) s = .next ((s.decoded w widen e).endWith .ok) :=
  h.effect e t ▸ exec_codec_pass (h.form e t) hin

end ByWidth

/-! ## The two tiers (41_codec.md R144, R145) -/

/-- Settles O53, by the bounds check of the safe tier. -/
theorem safeTierIsBoundsChecked : Obligations.SafeTierIsBoundsChecked := fun _ _ _ _ h =>
  ⟨codec_failsWith_bounds h, fun hin => ⟨_, exec_codec_pass h hin, rfl⟩⟩

/-- Settles O54: the tier is seen in the bounds check only. -/
theorem rawTierIsTheSafeTierInBounds : Obligations.RawTierIsTheSafeTierInBounds := by
  intro row hrow e s
  obtain ⟨hform, htiers⟩ : (∀ t, codecForm (row.1 e t) = some (row.2.1, row.2.2, t)) ∧
      codecEffect (row.1 e .raw) = codecEffect (row.1 e .safe) := by
    simp only [List.mem_cons, List.not_mem_nil, or_false] at hrow
    rcases hrow with rfl | rfl | rfl | rfl | rfl | rfl | rfl | rfl | rfl | rfl <;> exact ⟨fun _ => rfl, rfl⟩
  refine ⟨fun hin => ?_, exec_codec_fault (hform .raw)⟩
  rw [exec_codec_pass (hform .raw) hin, exec_codec_pass (hform .safe) hin, htiers]

/-! ## ENC (41_codec.md R150-R154) -/

/-- The byte of an n-byte value that lies at place j in the order e (41_codec.md R143). -/
def bytePlace (e : Endian) (n j : Nat) : Nat :=
  match e with
  | .little => j
  | .big => n - 1 - j

theorem extractLsb'_trunc {w k : Nat} (hk : k < w / 8) (v : DWord) :
    (trunc w v).extractLsb' (8 * k) 8 = byteOf v k := by
  apply BitVec.eq_of_getLsbD_eq
  intro j hj
  simp [trunc, byteOf, hj, show 8 * k + j < w by omega]

theorem orderedBytes_trunc_getElem {w : Nat} (e : Endian) (v : DWord) {j : Nat}
    (hj : j < (orderedBytes e (trunc w v)).length) :
    (orderedBytes e (trunc w v))[j] = byteOf v (bytePlace e (w / 8) j) := by
  have hlt : j < w / 8 := by simpa using hj
  cases e with
  | little => exact (leBytes_getElem _ j hj).trans (extractLsb'_trunc hlt v)
  | big => exact (beBytes_getElem _ j hj).trans (extractLsb'_trunc (by omega) v)

/-- The frame of ENC, and the bytes it writes (41_codec.md R141-R143). -/
theorem IsEnc.writesTheBytes {w : Nat} {op : CodecOp} {ins : Endian → Tier → Instr} (h : IsEnc w op ins) (e : Endian)
    (t : Tier) {s : State} (hin : s.arg1.toNat + w / 8 ≤ s.cfg.bufSize) :
    ∃ u, exec (ins e t) s = .next u ∧ Succeeded s u ∧ Untouched s u ∧ u.result = s.result ∧ SameContexts s u ∧
      (∀ j, j < w / 8 → u.byteAt (s.arg1.toNat + j) = byteOf s.arg0 (bytePlace e (w / 8) j)) ∧
      SameBytesOutside s.arg1.toNat (w / 8) s u :=
  ⟨_, h.exec_pass e t hin, succeeded_endWith_ok rfl, .of_update s _ _ _ _, rfl, fun _ => rfl,
   fun j hj => (s.byteAt_bufWrite_inside _ _ j (by simpa using hj)).trans (orderedBytes_trunc_getElem e s.arg0 _),
   fun a ha => s.byteAt_bufWrite_outside _ _ a (by rwa [orderedBytes_length])⟩

/-- Settles O51: read after write in BUF, and the bytes of a value in either order. -/
theorem encodeWritesTheBytes : Obligations.EncodeWritesTheBytes := by
  intro row hrow e s
  obtain ⟨w, hn, henc⟩ : ∃ w, row.2.2 = w / 8 ∧ IsEnc w row.2.1 row.1 := by
    simp only [List.mem_cons, List.not_mem_nil, or_false] at hrow
    rcases hrow with rfl | rfl | rfl | rfl | rfl
    exacts [⟨_, rfl, isEnc_i16⟩, ⟨_, rfl, isEnc_i32⟩, ⟨_, rfl, isEnc_i64⟩, ⟨_, rfl, isEnc_f32⟩, ⟨_, rfl, isEnc_f64⟩]
  rw [hn]
  exact ⟨fun t hin => henc.writesTheBytes e t hin,
    fun hout => ⟨codec_failsWith_bounds (henc.form e .safe) hout, exec_codec_fault (henc.form e .raw) hout⟩⟩

/-! ## DEC (41_codec.md R155-R159) -/

/-- The digits of a list of bytes, to base 256. -/
def byteDigits (bs : List Byte) : List Nat := bs.map BitVec.toNat

theorem fromLE_eq_ofDigits (w : Nat) (bs : List Byte) : fromLE w bs = BitVec.ofNat w (Nat.ofDigits 256 (byteDigits bs)) := by
  induction bs with
  | nil => rfl
  | cons b bs ih =>
    have hdisjoint : b.setWidth w &&& (fromLE w bs <<< 8) = 0 := by
      apply BitVec.eq_of_getLsbD_eq
      intro j hj
      by_cases h8 : j < 8
      · simp [h8]
      · simp [BitVec.getLsbD_of_ge b j (Nat.le_of_not_lt h8)]
    have hdigits : Nat.ofDigits 256 (byteDigits (b :: bs)) = b.toNat + 256 * Nat.ofDigits 256 (byteDigits bs) :=
      Nat.ofDigits_cons ..
    rw [fromLE, ← BitVec.add_eq_or_of_and_eq_zero _ _ hdisjoint, ih, hdigits]
    apply BitVec.eq_of_toNat_eq
    simp [Nat.shiftLeft_eq, Nat.mul_comm]

theorem State.bufRead_succ (s : State) (off n : Nat) : s.bufRead off (n + 1) = s.bufRead off n ++ [s.byteAt (off + n)] :=
  s.bufRead_add off n 1

theorem littleNumber_eq_ofDigits (s : State) (off n : Nat) :
    littleNumber s off n = Nat.ofDigits 256 (byteDigits (s.bufRead off n)) := by
  induction n with
  | zero => rfl
  | succ n ih => simp [littleNumber, ih, State.bufRead_succ, byteDigits, Nat.ofDigits_append, Nat.mul_comm]

theorem bigNumber_eq_ofDigits (s : State) (off n : Nat) :
    bigNumber s off n = Nat.ofDigits 256 (byteDigits (s.bufRead off n).reverse) := by
  induction n with
  | zero => rfl
  | succ n ih => simp [bigNumber, ih, State.bufRead_succ, byteDigits, Nat.ofDigits_cons, Nat.mul_comm, Nat.add_comm]

/-- The value of the bytes in an order is the number they make in it. -/
theorem fromOrdered_bufRead (w : Nat) (e : Endian) (s : State) (off n : Nat) :
    fromOrdered w e (s.bufRead off n) = BitVec.ofNat w (numberAt e s off n) := by
  cases e with
  | little => rw [numberAt, littleNumber_eq_ofDigits]; exact fromLE_eq_ofDigits w _
  | big => rw [numberAt, bigNumber_eq_ofDigits]; exact fromLE_eq_ofDigits w _

theorem ofDigits_byteDigits_lt (bs : List Byte) : Nat.ofDigits 256 (byteDigits bs) < 256 ^ bs.length := by
  have hlt := Nat.ofDigits_lt_base_pow_length (b := 256) (l := byteDigits bs) (by decide) fun d hd => by
    obtain ⟨b, _, rfl⟩ := List.mem_map.mp hd
    exact b.isLt
  rwa [byteDigits, List.length_map] at hlt

theorem numberAt_lt (e : Endian) (s : State) (off n : Nat) : numberAt e s off n < 256 ^ n := by
  cases e with
  | little => simpa [numberAt, littleNumber_eq_ofDigits] using ofDigits_byteDigits_lt (s.bufRead off n)
  | big => simpa [numberAt, bigNumber_eq_ofDigits] using ofDigits_byteDigits_lt (s.bufRead off n).reverse

/-- Zero-extending a pattern keeps its number (41_codec.md R148). -/
theorem zext64_ofNat {w n : Nat} (hn : n < 2 ^ w) : zext64 (BitVec.ofNat w n) = BitVec.ofNat 64 n := by
  apply BitVec.eq_of_toNat_eq
  simp [zext64, Nat.mod_eq_of_lt hn]

/-- The whole effect of DEC (41_codec.md R141, R143, R148). -/
theorem IsDec.returnsTheValue {w : Nat} {widen : BitVec w → DWord} {op : CodecOp} {ins : Endian → Tier → Instr}
    (h : IsDec w widen op ins) (e : Endian) (t : Tier) {s : State} (hin : s.arg1.toNat + w / 8 ≤ s.cfg.bufSize) :
    exec (ins e t) s = .next { s with
      result := widen (BitVec.ofNat w (numberAt e s s.arg1.toNat (w / 8)))
      status := { err := .ok, sticky := s.status.sticky } } := by
  rw [h.exec_pass e t hin, State.decoded, fromOrdered_bufRead]
  exact complete_eq _

/-- Settles O52: the bytes are the digits to base 256 of the value and of the number. -/
theorem decodeReturnsTheValue : Obligations.DecodeReturnsTheValue := by
  intro row hrow e s
  obtain ⟨w, widen, hn, hdec, hwiden⟩ : ∃ w, ∃ widen : BitVec w → DWord, row.2.2.1 = w / 8 ∧
      IsDec w widen row.2.1 row.1 ∧ ∀ x < 256 ^ (w / 8), widen (BitVec.ofNat w x) = row.2.2.2 x := by
    simp only [List.mem_cons, List.not_mem_nil, or_false] at hrow
    rcases hrow with rfl | rfl | rfl | rfl | rfl
    · exact ⟨16, sext64, rfl, isDec_i16, fun _ _ => rfl⟩
    · exact ⟨32, sext64, rfl, isDec_i32, fun _ _ => rfl⟩
    · exact ⟨64, id, rfl, isDec_i64, fun _ _ => rfl⟩
    · exact ⟨32, zext64, rfl, isDec_f32, fun _ hx => zext64_ofNat hx⟩
    · exact ⟨64, id, rfl, isDec_f64, fun _ _ => rfl⟩
  rw [hn, ← hwiden _ (numberAt_lt ..)]
  exact ⟨fun t hin => hdec.returnsTheValue e t hin,
    fun hout => ⟨codec_failsWith_bounds (hdec.form e .safe) hout, exec_codec_fault (hdec.form e .raw) hout⟩⟩

/-! ## ENC and then DEC (41_codec.md R149) -/

/-- Decoding reads back what encoding wrote. -/
theorem decoded_encoded_result {w : Nat} (h8 : w % 8 = 0) (widen : BitVec w → DWord) (e : Endian) (s : State) :
    (((s.encoded w e).endWith .ok).decoded w widen e).result = widen (trunc w s.arg0) := by
  have hread : (s.encoded w e).bufRead s.arg1.toNat (w / 8) = orderedBytes e (trunc w s.arg0) := by
    have h := s.bufRead_bufWrite s.arg1.toNat (orderedBytes e (trunc w s.arg0))
    rwa [orderedBytes_length] at h
  exact congrArg widen ((congrArg _ hread).trans (fromOrdered_orderedBytes h8 e _))

/-- Settles O55: the value of a value's bytes is the value. -/
theorem encodeThenDecodeReturnsTheValue : Obligations.EncodeThenDecodeReturnsTheValue := by
  intro row hrow e t t' s hin
  obtain ⟨op, op', w, widen, h8, hn, henc, hdec, hwiden⟩ : ∃ op op' w, ∃ widen : BitVec w → DWord, w % 8 = 0 ∧
      row.2.2.1 = w / 8 ∧ IsEnc w op row.1 ∧ IsDec w widen op' row.2.1 ∧ ∀ v, widen (trunc w v) = row.2.2.2 v := by
    simp only [List.mem_cons, List.not_mem_nil, or_false] at hrow
    rcases hrow with rfl | rfl | rfl | rfl | rfl
    · exact ⟨_, _, _, _, rfl, rfl, isEnc_i16, isDec_i16, fun _ => rfl⟩
    · exact ⟨_, _, _, _, rfl, rfl, isEnc_i32, isDec_i32, fun _ => rfl⟩
    · exact ⟨_, _, _, _, rfl, rfl, isEnc_i64, isDec_i64, BitVec.setWidth_eq⟩
    · exact ⟨_, _, _, _, rfl, rfl, isEnc_f32, isDec_f32, fun _ => rfl⟩
    · exact ⟨_, _, _, _, rfl, rfl, isEnc_f64, isDec_f64, BitVec.setWidth_eq⟩
  rw [hn] at hin
  exact ⟨_, _, henc.exec_pass e t hin, hdec.exec_pass e t' hin, (decoded_encoded_result h8 widen e s).trans (hwiden _)⟩

/-! ## What the codec leaves alone (41_codec.md R141) -/

/-- The state with other contexts. -/
def State.withContexts (x : List (Option Crc)) (s : State) : State := { s with ctx := x }

theorem withContexts_carriedThrough (x : List (Option Crc)) (s : State) :
    CarriedThrough (State.withContexts x) (State.withContexts x) s := ⟨rfl, rfl, fun _ => rfl⟩

theorem codecEffect_withContexts (i : Instr) (x : List (Option Crc)) (s : State) :
    codecEffect i (s.withContexts x) = (codecEffect i s).withContexts x := by cases i <;> rfl

theorem codecEffect_ctx (i : Instr) (s : State) : (codecEffect i s).ctx = s.ctx := by cases i <;> rfl

theorem codecEffect_buf {i : Instr} (h : returnsValue i = true) (s : State) : (codecEffect i s).buf = s.buf := by
  cases i with
  | encI16 | encI32 | encI64 | encF32 | encF64 => simp [returnsValue] at h
  | _ => rfl

/-- A codec command that ends in a next state has failed its bounds check or had its effect. -/
theorem exec_codec_next {i : Instr} (h : (codecForm i).isSome) {s t : State} (ht : exec i s = .next t) :
    t = s.endWith .bounds ∨ t = (codecEffect i s).endWith .ok := by
  obtain ⟨⟨op, n, tier⟩, hform⟩ := Option.isSome_iff_exists.mp h
  rw [exec_codec hform] at ht
  rcases codecBounds_cases op tier s.arg1.toNat n s (complete (codecEffect i s)) with ⟨_, ho⟩ | ⟨_, _, ho⟩ | ⟨_, _, ho⟩
  · exact .inr (Host.Outcome.next.inj (ho.symm.trans ht)).symm
  · exact .inl (Host.Outcome.next.inj (ho.symm.trans ht)).symm
  · cases ho.symm.trans ht

/-- Settles O56: other contexts are carried through a codec command, and its effect is on BUF or on RESULT. -/
theorem codecTouchesOnlyItsOwn : Obligations.CodecTouchesOnlyItsOwn := by
  intro i s h
  refine ⟨fun x => ?_, fun t ht =>
    ⟨exec_untouched ht, ?_, fun hv => ?_, fun hv => exec_result_kept ht (.inl hv)⟩⟩
  · obtain ⟨_, hform⟩ := Option.isSome_iff_exists.mp h
    have heffect := congrArg complete (codecEffect_withContexts i x s)
    exact (withContexts_carriedThrough x s).exec_codec hform rfl heffect
  · rcases exec_codec_next h ht with rfl | rfl
    · rfl
    · exact codecEffect_ctx i s
  · rcases exec_codec_next h ht with rfl | rfl
    · rfl
    · exact codecEffect_buf hv s

/-! ## NATIVE_ENDIAN (41_codec.md R146) -/

/-- The state with another NATIVE_ENDIAN. -/
def State.withNativeEndian (e : Endian) (s : State) : State := { s with cfg := { s.cfg with nativeEndian := e } }

theorem withNativeEndian_carriedThrough (e : Endian) (s : State) :
    CarriedThrough (State.withNativeEndian e) (State.withNativeEndian e) s := ⟨rfl, rfl, fun _ => rfl⟩

/-- Another NATIVE_ENDIAN is carried through every command: the CRC commands do not read it, and the effect of a codec command
does not either. -/
theorem exec_withNativeEndian (i : Instr) (e : Endian) (s : State) :
    exec i (s.withNativeEndian e) = mapNext (State.withNativeEndian e) (exec i s) := by
  have carry := withNativeEndian_carriedThrough e s
  cases i with
  | nop => rfl
  | crcCfg c width => cases width <;> exact carry.checkIndex c rfl
  | crcCfgt c width => cases width <;> exact carry.checkIndex c (carry.checkBounds _ _ _ rfl)
  | crcVar c => exact carry.checkIndex c rfl
  | crcInit c => exact carry.useContext c rfl fun _ => rfl
  | crcUpd c | crcFin c | crcCmp c => exact carry.useContext c rfl fun _ => carry.checkBounds _ _ _ rfl
  | crcRd c sel =>
    refine carry.useContext c rfl fun k => ?_
    have hindex : (s.withNativeEndian e).index0 = s.index0 := rfl
    rw [hindex]
    cases k.read sel s.index0 <;> rfl
  | crcRfl width => cases width <;> rfl
  | _ => exact carry.exec_codec rfl rfl rfl

theorem windowReg_eq_caps {a : Offset} (h : windowReg a = .caps) : a = 0x0004 :=
  BitVec.eq_of_toNat_eq (toNat_eq_of_offset?_windowReg (by rw [h]; rfl))

theorem readReg_withNativeEndian {r : WindowReg} (h : r ≠ .caps) (e : Endian) (s : State) :
    readReg (s.withNativeEndian e) r = readReg s r := by
  cases r with
  | caps => exact absurd rfl h
  | _ => rfl

theorem hostRead_withNativeEndian {a : Offset} (ha : a ≠ 0x0004) (size : AccessSize) (e : Endian) (s : State) :
    hostRead (s.withNativeEndian e) size a = hostRead s size a := by
  have hreg := readReg_withNativeEndian (fun hcaps => ha (windowReg_eq_caps hcaps)) e s
  have hbuf : readBuf (s.withNativeEndian e) a = readBuf s a := rfl
  rw [hostRead, hostRead, hreg, hbuf]

/-- Settles O12: of the commands only the raw codec could read NATIVE_ENDIAN, and of the registers only CAPS does. -/
theorem nativeEndianIsNotObservable : Obligations.NativeEndianIsNotObservable := fun s e =>
  ⟨fun i => exec_withNativeEndian i e s, fun size _ ha => hostRead_withNativeEndian ha size e s⟩

end Sys2Proof.Machine

/-! SUPPORT. The system family (42_system.md): NOP and the words with its opcode. -/
namespace Sys2Proof

open Machine

theorem decode_eq_nop_iff (w : Word) : decode w = .command .nop ↔ w = 0 := by
  constructor
  · intro h
    exact (decodedWordIsItsEncoding w .nop h).1.symm
  · rintro rfl
    exact encodeThenDecodeReturnsCommand .nop rfl

theorem Row.eq_nop_of_op_eq_zero {r : Row} (hr : r ∈ opcodeTable) (h : r.op = 0) : r = ⟨.nop, .n, 0x00⟩ :=
  Row.eq_of_op_eq r hr _ (by decide) h

/-- OP is the bits of a word under 0xFF (30_encoding.md R81). -/
theorem and_ff_eq_zero_of_op_zero {w : Word} (hop : w.extractLsb' 0 8 = 0) : w &&& 0xFF = 0 :=
  calc w &&& 0xFF
    _ = 0#24 ++ w.setWidth 8 := BitVec.and_setWidth_allOnes 24 8 w
    _ = 0#24 ++ w.extractLsb' 0 8 := by rw [BitVec.setWidth_eq_extractLsb' (by decide)]
    _ = 0 := by rw [hop]; rfl

/-- NOP's mask leaves no field (30_encoding.md R86), so of the words with its opcode its row matches only 0. -/
theorem decode_illegal_of_op_zero {w : Word} (hop : w.extractLsb' 0 8 = 0) (hne : w ≠ 0) :
    decode w = .illegal (rejection w) := by
  refine decode_of_no_match fun r hr hw => hne ?_
  have hzero : r.op = 0 := (Row.op_eq_of_matches hr hw).trans (and_ff_eq_zero_of_op_zero hop)
  obtain rfl := Row.eq_nop_of_op_eq_zero hr hzero
  calc w
    _ = w &&& Format.n.mask := (BitVec.and_allOnes (x := w)).symm
    _ = 0 := hw

/-- NOP is `complete` and nothing more (42_system.md R170). -/
theorem exec_nop (s : State) :
    exec .nop s = .next { s with status := { err := .ok, sticky := s.status.sticky } } :=
  complete_eq s

/-- Settles O30: NOP only completes, no bit of its word is a field, and no other row has its opcode. -/
theorem nopEffect : Obligations.NopEffect :=
  ⟨exec_nop, decode_eq_nop_iff, fun w hop hne => ⟨rejection w, decode_illegal_of_op_zero hop hne⟩⟩

end Sys2Proof

/-! SUPPORT. The exceptions family (60_exceptions.md): the one fault and no refusal; what a failed command leaves alone; the order
in which the errors of a word are raised. -/
namespace Sys2Proof

open Laws Machine

/-! ## The CTX bits of a word (60_exceptions.md R182; 30_encoding.md R86) -/

/-- The formats without a CTX field are N, R and B (30_encoding.md R86). -/
theorem format_of_contextNumber_none {i : Instr} (h : contextNumber i = none) :
    (rowOf i).format ∈ [Format.n, Format.r, Format.b] := by
  cases i with
  | crcCfg | crcCfgt | crcVar | crcInit | crcUpd | crcFin | crcCmp | crcRd => cases h
  | _ => simp [rowOf]

theorem Format.mask_covers_ctx : ∀ f ∈ [Format.n, Format.r, Format.b], f.mask.extractLsb' 8 4 = BitVec.allOnes 4 := by
  decide

theorem Row.op_ctx_zero : ∀ r ∈ opcodeTable, r.op.extractLsb' 8 4 = 0 := by decide

theorem ctx_zero_of_contextNumber_none {w : Word} {i : Instr} (hw : decode w = .command i)
    (hnone : contextNumber i = none) : w.extractLsb' 8 4 = 0 := by
  have hrow : w &&& (rowOf i).format.mask = (rowOf i).op :=
    (decodedWordIsItsEncoding w i hw).1 ▸ encode_matches_rowOf i
  calc w.extractLsb' 8 4
    _ = w.extractLsb' 8 4 &&& (rowOf i).format.mask.extractLsb' 8 4 := by
      rw [Format.mask_covers_ctx _ (format_of_contextNumber_none hnone), BitVec.and_allOnes]
    _ = (rowOf i).op.extractLsb' 8 4 := by rw [← BitVec.extractLsb'_and, hrow]
    _ = 0 := Row.op_ctx_zero _ (rowOf_mem i)

end Sys2Proof

namespace Sys2Proof.Machine

/-! ## The one fault, and no refusal (60_exceptions.md R188) -/

/-- The fault says which command faulted and where: a raw codec command, at an offset from which its bytes leave BUF. -/
theorem CommandOutcome.fault_inv {i : Instr} {s : State} {o : Outcome} {r : Fault} (h : CommandOutcome i s o)
    (ho : o = .fault r) :
    ∃ op n, codecForm i = some (op, n, .raw) ∧ s.cfg.bufSize < s.arg1.toNat + n ∧
      r = .undefinedBehaviour (.rawOutOfBounds op s.arg1.toNat) := by
  cases h with
  | rawFault op n hform hout => exact ⟨op, n, hform, hout, (Host.Outcome.fault.inj ho).symm⟩
  | _ => cases ho

theorem exec_eq_fault_iff {i : Instr} {s : State} {r : Fault} :
    exec i s = .fault r ↔
      ∃ op n, codecForm i = some (op, n, .raw) ∧ s.cfg.bufSize < s.arg1.toNat + n ∧
        r = .undefinedBehaviour (.rawOutOfBounds op s.arg1.toNat) := by
  constructor
  · exact (exec_outcome i s).fault_inv
  · rintro ⟨op, n, hform, hout, rfl⟩
    exact exec_codec_fault hform hout

theorem CommandOutcome.ne_refused {i : Instr} {s : State} {o : Outcome} (h : CommandOutcome i s o) (r : Refusal) :
    o ≠ .refused r := by
  cases h <;> exact nofun

theorem issue_ne_refused (w : Word) (s : State) (r : Refusal) : issue w s ≠ .refused r := by
  rcases issue_cases w s with ⟨i, _, ho⟩ | ⟨_, _, ho⟩
  · rw [ho]; exact (exec_outcome i _).ne_refused r
  · rw [ho]; exact nofun

theorem mapNext_ne_refused {f : State → State} {o : Outcome} {r : Refusal} (h : o ≠ .refused r) :
    mapNext f o ≠ .refused r := by
  cases o with
  | refused _ => exact h
  | _ => exact nofun

theorem AccessOutcome.ne_refused {s : State} {o : Outcome} (h : AccessOutcome s o) (r : Refusal) : o ≠ .refused r := by
  cases h with
  | issued w => exact mapNext_ne_refused (issue_ne_refused w s r)
  | _ => exact nofun

theorem step_ne_refused (s : State) (r : Refusal) : step s ≠ .refused r := by
  rcases step_cases s with ⟨_, ho⟩ | ⟨op, ops, _, ho⟩
  · rw [ho]; exact nofun
  · rw [ho]; exact (access_outcome op _).ne_refused r

/-- Settles O14, from what each command, each access and each step can end in. -/
theorem theOnlyFaultIsRawOutOfBounds : Obligations.TheOnlyFaultIsRawOutOfBounds :=
  ⟨fun _ _ _ => exec_eq_fault_iff, step_ne_refused⟩

/-! ## Errors are precise (60_exceptions.md R181) -/

/-- Only `raiseErr` leaves an ERR other than 0, and it writes nothing but STATUS. -/
theorem CommandOutcome.precise {i : Instr} {s : State} {o : Outcome} (h : CommandOutcome i s o) :
    NextSatisfies (fun t => t.status.err ≠ .ok → t = s.endWith t.status.err) o := by
  cases h with
  | badctx | nocfg | bounds | construct => exact fun _ => rfl
  | rawFault => trivial
  | _ => exact fun herr => absurd rfl herr

theorem issue_precise {w : Word} {s t : State} (h : issue w s = .next t) (herr : t.status.err ≠ .ok) :
    t = State.endWith { s with lastcmd := w } t.status.err := by
  rcases issue_cases w s with ⟨i, _, ho⟩ | ⟨_, _, ho⟩
  · exact exec_next (fun _ houtcome => houtcome.precise) (ho.symm.trans h) herr
  · obtain rfl := Host.Outcome.next.inj (ho.symm.trans h)
    rfl

theorem State.endWith_error {e : ErrCode} (he : e ≠ .ok) (s : State) :
    s.endWith e = { s with status := { err := e, sticky := true } } :=
  Host.Outcome.next.inj (raiseErr_eq e s he)

/-- Settles O15: every error is a `raiseErr`. -/
theorem errorsArePrecise : Obligations.ErrorsArePrecise := fun _ _ _ h herr =>
  (issue_precise h herr).trans (State.endWith_error herr _)

/-! ## ILLEGAL and BADCTX come first (60_exceptions.md R182) -/

/-- A command with a CTX field begins with the check of it. -/
theorem exec_eq_checkIndex {i : Instr} {c : Nat} (h : contextNumber i = some c) (s : State) :
    ∃ body, exec i s = checkIndex c s body := by
  cases i with
  | crcCfg | crcCfgt | crcVar | crcInit | crcUpd | crcFin | crcCmp | crcRd => cases h; exact ⟨_, rfl⟩
  | _ => cases h

theorem failsWith_badctx_of_contextNumber {i : Instr} {c : Nat} {s : State} (h : contextNumber i = some c)
    (hc : s.cfg.numCtx ≤ c) : FailsWith .badctx i s :=
  have ⟨_, hexec⟩ := exec_eq_checkIndex h s
  failsWith_badctx hexec hc

theorem CommandOutcome.no_context_error {i : Instr} {s : State} {o : Outcome} (h : CommandOutcome i s o)
    (hnone : contextNumber i = none) :
    NextSatisfies (fun t => t.status.err ≠ .badctx ∧ t.status.err ≠ .nocfg) o := by
  cases h with
  | badctx c hc | nocfg c hc => cases hnone.symm.trans hc
  | rawFault => trivial
  | _ => exact ⟨nofun, nofun⟩

/-- Settles O16: ILLEGAL at decode, the index check before anything else, and no other source of BADCTX and NOCFG. -/
theorem illegalAndBadctxComeFirst : Obligations.IllegalAndBadctxComeFirst :=
  ⟨fun _ _ s h => issue_of_illegal h s, fun _ _ _ => failsWith_badctx_of_contextNumber,
   fun _ _ _ hnone => exec_next fun _ houtcome => houtcome.no_context_error hnone,
   fun _ _ => ctx_zero_of_contextNumber_none⟩

/-! ## NOCFG (60_exceptions.md R183) -/

/-- Every command with a CTX field but a construction command uses a configured context. -/
theorem needsContext_of_contextNumber {i : Instr} {c : Nat} (h : contextNumber i = some c) (hi : constructs i = false) :
    NeedsContext c i := by
  cases i with
  | crcCfg | crcCfgt | crcVar => cases hi
  | crcInit | crcUpd | crcFin | crcCmp | crcRd => cases h; exact needsContext_of_useContext fun _ => rfl
  | _ => cases h

/-- Settles O17, by the checks of the commands that use a configured context. -/
theorem unconfiguredContextRaisesNocfg : Obligations.UnconfiguredContextRaisesNocfg := fun _ _ s h hi =>
  (needsContext_of_contextNumber h hi s).2

/-! ## The bounds error comes last (60_exceptions.md R184) -/

/-- The error of a range check: e where the n bytes at off are not all inside BUF (20_memory.md R55). -/
def rangeError (s : State) (off n : Nat) (e : ErrCode) : Option ErrCode := if s.cfg.bufSize < off + n then some e else none

theorem rangeError_inside {s : State} {off n : Nat} (h : off + n ≤ s.cfg.bufSize) (e : ErrCode) :
    rangeError s off n e = none := if_neg (Nat.not_lt.mpr h)

theorem rangeError_outside {s : State} {off n : Nat} (h : s.cfg.bufSize < off + n) (e : ErrCode) :
    rangeError s off n e = some e := if_pos h

/-! The bounds error of each command with a range or index check, as a range check or as the index check. -/

theorem boundsError_codec {i : Instr} {op : CodecOp} {n : Nat} {tier : Tier} (h : codecForm i = some (op, n, tier))
    (s : State) : boundsError i s = rangeError s s.arg1.toNat n .bounds := by
  cases i with
  | encI16 | encI32 | encI64 | encF32 | encF64 | decI16 | decI32 | decI64 | decF32 | decF64 => cases h; rfl
  | _ => cases h

theorem boundsError_crcFin {c : Nat} {k : Crc} {s : State} (hk : s.context c = some k) :
    boundsError (.crcFin c) s = rangeError s s.arg0.toNat k.bytes .bounds := by
  rw [boundsError, hk]
  cases k <;> rfl

theorem Crc.read_eq_none_iff {k : Crc} {sel : Selector} {i : Nat} : k.read sel i = none ↔ sel = .table ∧ 255 < i := by
  constructor
  · intro h
    cases sel with
    | table =>
      refine ⟨rfl, Nat.lt_of_not_le fun hi => ?_⟩
      cases k with
      | w16 x => cases (x.read_table false (Nat.lt_succ_of_le hi)).symm.trans h
      | w32 x => cases (x.read_table true (Nat.lt_succ_of_le hi)).symm.trans h
    | _ => cases k <;> cases h
  · rintro ⟨rfl, hout⟩
    exact k.read_table_outside hout

theorem boundsError_crcRd_of_none {k : Crc} {sel : Selector} {s : State} (h : k.read sel s.arg0.toNat = none) (c : Nat) :
    boundsError (.crcRd c sel) s = some .bounds := by
  obtain ⟨rfl, hout⟩ := Crc.read_eq_none_iff.mp h
  exact if_pos hout

theorem boundsError_crcRd_of_some {k : Crc} {sel : Selector} {s : State} {v : DWord}
    (h : k.read sel s.arg0.toNat = some v) (c : Nat) : boundsError (.crcRd c sel) s = none := by
  cases sel with
  | table => exact if_neg fun hout => by rw [Crc.read_eq_none_iff.mpr ⟨rfl, hout⟩] at h; cases h
  | _ => rfl

/-- The next state, if there is one, has ERR = e. -/
def EndsWith (e : ErrCode) : Outcome → Prop := NextSatisfies fun t => t.status.err = e

namespace EndsWith

variable {e : ErrCode} {s : State}

theorem complete (s : State) : EndsWith .ok (complete s) := rfl

theorem raiseErr (e : ErrCode) (s : State) : EndsWith e (raiseErr e s) := rfl

/-- The index check of a command that names no missing context passes. -/
theorem checkIndex {i : Instr} {c : Nat} {body : Outcome} (hc : contextNumber i = some c) (hctx : ¬ NamesNoContext i s)
    (h : EndsWith e body) : EndsWith e (checkIndex c s body) := by
  rcases checkIndex_cases c s body with ⟨_, ho⟩ | ⟨hge, _⟩
  · rw [ho]; exact h
  · exact absurd ⟨c, hc, hge⟩ hctx

/-- The two checks of a command that names no missing and no unconfigured context pass. -/
theorem useContext {i : Instr} {c : Nat} {body : Crc → Outcome} (hc : contextNumber i = some c)
    (hi : constructs i = false) (hctx : ¬ NamesNoContext i s) (hcfg : ¬ NamesUnconfigured i s)
    (h : ∀ k, s.context c = some k → EndsWith e (body k)) : EndsWith e (useContext c s body) := by
  rcases useContext_cases c s body with ⟨k, _, hk, ho⟩ | ⟨hlt, hk, _⟩ | ⟨hge, _⟩
  · rw [ho]; exact h k hk
  · exact absurd ⟨hi, c, hc, hlt, hk⟩ hcfg
  · exact absurd ⟨c, hc, hge⟩ hctx

theorem checkBounds (off n : Nat) (e : ErrCode) (s t : State) :
    EndsWith ((rangeError s off n e).getD .ok) (checkBounds off n e s (Machine.complete t)) := by
  rcases checkBounds_cases off n e s (Machine.complete t) with ⟨hin, ho⟩ | ⟨hout, ho⟩
  · rw [ho, rangeError_inside hin]; exact complete t
  · rw [ho, rangeError_outside hout]; exact raiseErr e s

theorem codecBounds (op : CodecOp) (tier : Tier) (off n : Nat) (s t : State) :
    EndsWith ((rangeError s off n .bounds).getD .ok) (codecBounds op tier off n s (Machine.complete t)) := by
  rcases codecBounds_cases op tier off n s (Machine.complete t) with ⟨hin, ho⟩ | ⟨hout, _, ho⟩ | ⟨_, _, ho⟩
  · rw [ho, rangeError_inside hin]; exact complete t
  · rw [ho, rangeError_outside hout]; exact raiseErr .bounds s
  · rw [ho]; trivial

theorem codec {i : Instr} {op : CodecOp} {n : Nat} {tier : Tier} (h : codecForm i = some (op, n, tier)) (s : State) :
    EndsWith ((boundsError i s).getD .ok) (exec i s) := by
  rw [exec_codec h, boundsError_codec h]
  exact codecBounds op tier _ n s _

end EndsWith

/-- Once its context is checked, a command ends with the error of its one range or index check. -/
theorem exec_endsWith_boundsError {i : Instr} {s : State} (hctx : ¬ NamesNoContext i s) (hcfg : ¬ NamesUnconfigured i s) :
    EndsWith ((boundsError i s).getD .ok) (exec i s) := by
  cases i with
  | nop => exact .complete _
  | crcCfg c width => cases width <;> exact .checkIndex rfl hctx (.complete _)
  | crcCfgt c width => cases width <;> exact .checkIndex rfl hctx (.checkBounds _ _ .construct s _)
  | crcVar c => exact .checkIndex rfl hctx (.complete _)
  | crcInit c => exact .useContext rfl rfl hctx hcfg fun _ _ => .complete _
  | crcUpd c | crcCmp c => exact .useContext rfl rfl hctx hcfg fun _ _ => .checkBounds _ _ .bounds s _
  | crcFin c =>
    refine .useContext rfl rfl hctx hcfg fun k hk => ?_
    rw [boundsError_crcFin hk]
    exact .checkBounds _ _ .bounds s _
  | crcRd c sel =>
    refine .useContext rfl rfl hctx hcfg fun k _ => ?_
    cases hread : k.read sel s.index0 with
    | none => rw [boundsError_crcRd_of_none hread]; exact .raiseErr .bounds s
    | some v => rw [boundsError_crcRd_of_some hread]; exact .complete _
  | crcRfl width => cases width <;> exact .complete _
  | _ => exact .codec rfl s

theorem FailsWith.err_eq {e : ErrCode} {i : Instr} {s t : State} (h : FailsWith e i s) (ht : exec i s = .next t) :
    t.status.err = e := by
  obtain rfl := Host.Outcome.next.inj (h.symm.trans ht)
  rfl

/-- The order of the errors of a command: BADCTX, NOCFG, then its bounds error, and OK when none applies. -/
theorem exec_err_order {i : Instr} {s t : State} (h : exec i s = .next t) :
    (NamesNoContext i s → t.status.err = .badctx) ∧
      (¬ NamesNoContext i s → NamesUnconfigured i s → t.status.err = .nocfg) ∧
      (¬ NamesNoContext i s → ¬ NamesUnconfigured i s → t.status.err = (boundsError i s).getD .ok) := by
  refine ⟨?_, ?_, fun hctx hcfg => ?_⟩
  · rintro ⟨c, hc, hge⟩
    exact (failsWith_badctx_of_contextNumber hc hge).err_eq h
  · rintro - ⟨hi, c, hc, hlt, hk⟩
    exact (unconfiguredContextRaisesNocfg i c s hc hi hlt hk).err_eq h
  · have hend := exec_endsWith_boundsError hctx hcfg
    rwa [h] at hend

/-- Settles O18: a legal word executes its command, and no check of a command reads LASTCMD. -/
theorem errorsFollowThePriorityOrder : Obligations.ErrorsFollowThePriorityOrder := fun w s =>
  ⟨fun _ h => ⟨_, issue_of_illegal h s, rfl⟩,
   fun _ _ hw ht => exec_err_order (s := { s with lastcmd := w }) ((issue_of_command hw s).symm.trans ht)⟩

end Sys2Proof.Machine

/-! SUPPORT. The reset and hazards family (70_reset_and_hazards.md): every command within the raw tier's precondition completes,
and what the hardware reset gives. -/

namespace Sys2Proof.Machine

/-! ## Every command completes (70_reset_and_hazards.md R226, R231) -/

/-- The raw tier's precondition is the negation of what a fault says of its command. -/
theorem exec_ne_fault_of_rawSafe {i : Instr} {s : State} (hsafe : RawSafe i s) (r : Fault) : exec i s ≠ .fault r := by
  intro hfault
  obtain ⟨op, n, hform, hout, -⟩ := exec_eq_fault_iff.mp hfault
  exact absurd (hsafe op n hform) hout.not_ge

/-- Settles O13: a command ends in a next state or a fault, never a refusal, and the precondition rules out the fault. -/
theorem everyCommandCompletes : Obligations.EveryCommandCompletes := by
  intro i s hsafe
  cases ho : exec i s with
  | next t => exact ⟨t, rfl⟩
  | fault r => exact absurd ho (exec_ne_fault_of_rawSafe hsafe r)
  | refused r => exact absurd ho ((exec_outcome i s).ne_refused r)

/-! ## The hardware reset (70_reset_and_hazards.md R210; 10_state.md R35) -/

/-- The hardware reset gives the contexts the list the soft reset gives them. -/
@[simp] theorem State.context_hardReset (s : State) (c : Nat) : s.hardReset.context c = none := s.context_softReset c

/-- Settles O29, by the field lemmas of the hardware reset. -/
theorem hardwareResetValues : Obligations.HardwareResetValues := fun s =>
  ⟨s.hardReset, rfl, s.hardReset_arg0, s.hardReset_arg1, s.hardReset_arg2, s.hardReset_arg3, s.hardReset_result,
   s.hardReset_status, s.hardReset_lastcmd, s.context_hardReset, List.length_replicate, s.hardReset_cfg⟩

end Sys2Proof.Machine
